-- ==== Sys2Proof/Word.lean ====
section
/-! DEFINITION. The words that cross the ports of the block (30_encoding.md R80). -/

namespace Sys2Proof

/-- A command word `cmd_word[63:0]` (30_encoding.md R81). -/
abbrev CommandWord := BitVec 64

/-- An event word `{tick, ir_in}` (30_encoding.md R89). -/
abbrev EventWord := BitVec 2

/-- A word of the register read port (10_state.md R42). -/
abbrev RegWord := BitVec 32

/-- A word address of the register read port, `raddr` (10_state.md R42). -/
abbrev RegAddr := BitVec 12

/-- The level of the sensor pin, `ir_in` (30_encoding.md R80, R89). -/
abbrev Level := Bool

end Sys2Proof
end

