-- ==== Sys2Proof/Syntax.lean ====
section
/-! DEFINITION. The operations of the block, one constructor for each row of spec/opcode_table.json, and one more for the words
its note names (30_encoding.md R82 to R89). -/

namespace Sys2Proof

/-- The operations. Operands are the fields of the encodings, unsigned (30_encoding.md R83, R84, R94). -/
inductive Instr where
  /-- TICK: the event of the tick agent, with the sensor level (30_encoding.md R89). -/
  | tick (level : Level)
  /-- START_RECEIVING (40_sampler.md R115). -/
  | startReceiving
  /-- RESET_CAPTURE (40_sampler.md R116). -/
  | resetCapture
  /-- TRY_DECODE (42_decoder.md R150). -/
  | tryDecode
  /-- TRANSMIT value, nbits, khz (30_encoding.md R83). -/
  | transmit (value : BitVec 32) (nbits : BitVec 6) (khz : BitVec 8)
  /-- MATCH kind, ticks, us; kind true is a mark (30_encoding.md R84). -/
  | matchWindow (kind : Bool) (ticks us : BitVec 16)
  /-- (reserved), op 0b000: the other bits of the word are arbitrary (30_encoding.md R86). -/
  | reservedOp0 (rest : BitVec 61)
  /-- (reserved), op 0b110 (30_encoding.md R86). -/
  | reservedOp6 (rest : BitVec 61)
  /-- (reserved), op 0b111 (30_encoding.md R86). -/
  | reservedOp7 (rest : BitVec 61)
  /-- (reserved), by the note of the table's first reserved row: a word of a defined op with a reserved bit set
  (30_encoding.md R87; log 13). -/
  | reservedBits (word : CommandWord)
  deriving DecidableEq, Repr

/-- What carries an operation into the block: an event word on tick / ir_in (30_encoding.md R89) or a command word on the
command port (R81). -/
inductive PortWord where
  | event (e : EventWord)
  | command (w : CommandWord)
  deriving DecidableEq, Repr

end Sys2Proof
end

