-- ==== Sys2Proof/WellFormed.lean ====
section
/-! DEFINITION. Which terms of Instr stand for a word of the table: every operand fits its field by its type (30_encoding.md
R94), and a `reservedBits` word is a word of a defined op that has a reserved bit set (R87). -/

namespace Sys2Proof

/-- R87, read from the formats of R83 to R85: the word has a defined op and a bit its format reserves is 1. -/
abbrev SetsReservedBit (w : CommandWord) : Prop :=
  ((w.extractLsb' 0 3 = 1 ∨ w.extractLsb' 0 3 = 2 ∨ w.extractLsb' 0 3 = 3) ∧ w.extractLsb' 3 61 ≠ 0) ∨
  (w.extractLsb' 0 3 = 4 ∧ w.extractLsb' 17 15 ≠ 0) ∨
  (w.extractLsb' 0 3 = 5 ∧ (w.extractLsb' 4 12 ≠ 0 ∨ w.extractLsb' 48 16 ≠ 0))

/-- Well-formed: the term is the reading of some port word. A TRANSMIT whose operands R88 makes ILLEGAL is well-formed: its word
matches the table's row, and its meaning is the ILLEGAL response. -/
def Instr.wellFormed : Instr → Bool
  | .tick _ => true
  | .startReceiving => true
  | .resetCapture => true
  | .tryDecode => true
  | .transmit _ _ _ => true
  | .matchWindow _ _ _ => true
  | .reservedOp0 _ => true
  | .reservedOp6 _ => true
  | .reservedOp7 _ => true
  | .reservedBits w => decide (SetsReservedBit w)

end Sys2Proof
end

