-- ==== Sys2Proof/Decode.lean ====
section
/-! DEFINITION. From port words to operations and back (30_encoding.md R81 to R89). The decoder is total: every command word is
an operation, and an event word is one exactly when its strobe bit is set. -/

namespace Sys2Proof

/-- Why a port word is no operation. -/
inductive DecodeError where
  /-- An event word whose strobe bit e[1] is 0: "Between tick cycles the block ignores `ir_in`" (30_encoding.md R89). -/
  | noStrobe
  deriving DecidableEq, Repr

/-- The TICK event: e[1] is the strobe and e[0] the level (30_encoding.md R89). -/
def decodeEvent (e : EventWord) : Except DecodeError Instr :=
  if e.getLsbD 1 then .ok (.tick (e.getLsbD 0)) else .error .noStrobe

/-- The formats without operands: bits [63:3] must be 0 (30_encoding.md R85, R87). -/
def decodePlain (i : Instr) (w : CommandWord) : Instr :=
  if w.extractLsb' 3 61 = 0 then i else .reservedBits w

/-- The TRANSMIT format: bits [31:17] must be 0 (30_encoding.md R83, R87). -/
def decodeTransmit (w : CommandWord) : Instr :=
  if w.extractLsb' 17 15 = 0 then .transmit (w.extractLsb' 32 32) (w.extractLsb' 3 6) (w.extractLsb' 9 8)
  else .reservedBits w

/-- The MATCH format: bits [15:4] and [63:48] must be 0 (30_encoding.md R84, R87). -/
def decodeMatch (w : CommandWord) : Instr :=
  if w.extractLsb' 4 12 = 0 ∧ w.extractLsb' 48 16 = 0 then
    .matchWindow (w.getLsbD 3) (w.extractLsb' 16 16) (w.extractLsb' 32 16)
  else .reservedBits w

/-- The opcode map, `op = w[2:0]` (30_encoding.md R81, R82, R86). -/
def decodeCommand (w : CommandWord) : Instr :=
  match (w.extractLsb' 0 3).toNat with
  | 0 => .reservedOp0 (w.extractLsb' 3 61)
  | 1 => decodePlain .startReceiving w
  | 2 => decodePlain .resetCapture w
  | 3 => decodePlain .tryDecode w
  | 4 => decodeTransmit w
  | 5 => decodeMatch w
  | 6 => .reservedOp6 (w.extractLsb' 3 61)
  | _ => .reservedOp7 (w.extractLsb' 3 61)

/-- The decoder. -/
def decode : PortWord → Except DecodeError Instr
  | .event e => decodeEvent e
  | .command w => .ok (decodeCommand w)

/-- The encoder, from the encoding column of 30_encoding.md R92 (`{a, b}` has a in the high bits, 00_scope.md R9). -/
def encode : Instr → PortWord
  | .tick level => .event (1#1 ++ BitVec.ofBool level)
  | .startReceiving => .command (0#61 ++ 0b001#3)
  | .resetCapture => .command (0#61 ++ 0b010#3)
  | .tryDecode => .command (0#61 ++ 0b011#3)
  | .transmit value nbits khz => .command (value ++ 0#15 ++ khz ++ nbits ++ 0b100#3)
  | .matchWindow kind ticks us => .command (0#16 ++ us ++ ticks ++ 0#12 ++ BitVec.ofBool kind ++ 0b101#3)
  | .reservedOp0 rest => .command (rest ++ 0b000#3)
  | .reservedOp6 rest => .command (rest ++ 0b110#3)
  | .reservedOp7 rest => .command (rest ++ 0b111#3)
  | .reservedBits w => .command w

/-- The port word of a row of spec/opcode_table.json given as a number: the one row of 2 bits (a whole byte at most) is an event
word, every other row a 64-bit command word (log 14). -/
def portWordOf (nbits w : Nat) : PortWord :=
  if nbits ≤ 8 then .event (BitVec.ofNat 2 w) else .command (BitVec.ofNat 64 w)

/-- The operation the decoder reads from a table row's bits. A byte whose bits above the two event bits are not 0 is no event
word. -/
def decodeTableWord (nbits w : Nat) : Option Instr :=
  if nbits ≤ 8 ∧ 4 ≤ w then none else (decode (portWordOf nbits w)).toOption

end Sys2Proof
end

