-- ==== Sys2Proof/Config.lean ====
section
/-! DEFINITION. The implementation parameters (00_scope.md R7), their constraints, the reference configuration (R8) and the
free values of the model (20_memory.md R67, 10_state.md R51; notes/assumptions 2, 8 and 9). -/

namespace Sys2Proof

/-- ENC_BIT_ANCHOR: which bits of `value` TRANSMIT sends when nbits < 32 (43_encoder.md R175). -/
inductive BitAnchor where
  | lowField   -- LOW_FIELD: the low nbits of the value
  | topOfWord  -- TOP_OF_WORD: the top nbits of the 32-bit word
  deriving DecidableEq, Repr, Inhabited

/-- The parameters of 00_scope.md R7, one field for each row of its table. -/
structure Config where
  /-- TICK_US: microseconds for one sampling tick. -/
  tickUs : Nat
  /-- RAWBUF: entries of the RawTimingBuffer. -/
  rawBuf : Nat
  /-- GAP_TICKS: the minimum-gap threshold, in ticks. -/
  gapTicks : Nat
  /-- CNT_W: width of the tick counter and of every buffer entry. -/
  cntW : Nat
  /-- TOL_PCT: the symmetric tolerance, in percent. -/
  tolPct : Nat
  /-- EXCESS_MARK: µs added to a nominal mark before matching. -/
  excessMark : Nat
  /-- EXCESS_SPACE: µs subtracted from a nominal space before matching. -/
  excessSpace : Nat
  /-- MARK_LEVEL: the sensor level that means a mark. -/
  markLevel : Level
  /-- NEC_HDR_MARK, µs. -/
  necHdrMark : Nat
  /-- NEC_HDR_SPACE, µs. -/
  necHdrSpace : Nat
  /-- NEC_BIT_MARK, µs. -/
  necBitMark : Nat
  /-- NEC_ONE_SPACE, µs. -/
  necOneSpace : Nat
  /-- NEC_ZERO_SPACE, µs. -/
  necZeroSpace : Nat
  /-- NEC_RPT_SPACE, µs. -/
  necRptSpace : Nat
  /-- NEC_BITS: bits in a full NEC frame. -/
  necBits : Nat
  /-- REPEAT_VALUE: the value reported for a repeat code. -/
  repeatValue : BitVec 32
  /-- PROTO_NEC: the protocol identifier reported on success. -/
  protoNec : BitVec 4
  /-- ENC_BIT_ANCHOR. -/
  encBitAnchor : BitAnchor
  /-- TX_TIME_ERR: the largest difference, in µs, between a segment's real and nominal duration. DESIGN CHOICE (log 21): a whole
  number of µs, where R7 says only that it is 0 or more; a fractional bound is given by the next whole number above it. -/
  txTimeErr : Nat
  deriving DecidableEq, Repr

/-- The constraint column of 00_scope.md R7. -/
abbrev Config.Valid (c : Config) : Prop :=
  1 ≤ c.tickUs ∧
  (2 ≤ c.rawBuf ∧ c.rawBuf ≤ 255) ∧
  (1 ≤ c.gapTicks ∧ c.gapTicks + 2 ≤ 2 ^ c.cntW) ∧
  (8 ≤ c.cntW ∧ c.cntW ≤ 32) ∧
  c.tolPct ≤ 100 ∧
  (1 ≤ c.necHdrMark ∧ c.necHdrMark ≤ 65535) ∧
  (1 ≤ c.necHdrSpace ∧ c.necHdrSpace ≤ 65535) ∧
  (1 ≤ c.necBitMark ∧ c.necBitMark ≤ 65535) ∧
  (1 ≤ c.necOneSpace ∧ c.necOneSpace ≤ 65535) ∧
  (1 ≤ c.necZeroSpace ∧ c.necZeroSpace ≤ 65535) ∧
  (1 ≤ c.necRptSpace ∧ c.necRptSpace ≤ 65535) ∧
  (1 ≤ c.necBits ∧ c.necBits ≤ 32) ∧
  c.protoNec ≠ 0

/-- The reference configuration (00_scope.md R8). R8 gives no value for ENC_BIT_ANCHOR and none for TX_TIME_ERR, so both are
arguments. -/
def Config.reference (anchor : BitAnchor) (txTimeErr : Nat) : Config where
  tickUs := 50
  rawBuf := 100
  gapTicks := 100
  cntW := 16
  tolPct := 25
  excessMark := 100
  excessSpace := 100
  markLevel := false
  necHdrMark := 9000
  necHdrSpace := 4500
  necBitMark := 560
  necOneSpace := 1690
  necZeroSpace := 560
  necRptSpace := 2250
  necBits := 32
  repeatValue := 0xFFFFFFFF#32
  protoNec := 1#4
  encBitAnchor := anchor
  txTimeErr := txTimeErr

/-- FREE VALUE (log 2): ENC_BIT_ANCHOR of the machine after reset, OPEN with no default (00_scope.md R7, 43_encoder.md R175). -/
opaque Config.openBitAnchor : BitAnchor

/-- FREE VALUE (log 2): TX_TIME_ERR of the machine after reset, OPEN with no default (00_scope.md R7). -/
opaque Config.openTxTimeErr : Nat

/-- FREE VALUE (log 8): what cell `i` of the buffer holds while nothing has been written there; its contents after reset are
unspecified (10_state.md R51). -/
opaque Config.unwrittenEntry : Nat → Nat

/-- FREE VALUE (log 9): the `n`-th draw of an unspecified entry by a host read at an index from rawlen up (20_memory.md R67). -/
opaque Config.freeEntry : Nat → Nat

end Sys2Proof
end

