-- ==== Sys2Proof/Machine/State.lean ====
section
/-! DEFINITION. The architectural state (10_state.md R30 to R37), what the model records beside it, and reset (R51, R210). -/

namespace Sys2Proof.Machine

/-- ReceiverState (10_state.md R31). -/
inductive ReceiverState where
  | idle
  | timingMark
  | timingSpace
  | stopped
  deriving DecidableEq, Repr

/-- The `resp_status` codes (60_exceptions.md R191); codes 6 and 7 are never produced. -/
inductive Status where
  | none
  | ok
  | decoded
  | notReady
  | invalid
  | illegal
  deriving DecidableEq, Repr

/-- An item of the output trace, durations in nominal µs (43_encoder.md R171, R182). -/
inductive TraceItem where
  | cfg (khz : BitVec 8)
  | mark (us : Nat)
  | space (us : Nat)
  deriving DecidableEq, Repr

/-- One piece of port activity (30_encoding.md R80): a cycle with rst = 1 (70_reset_and_hazards.md R210), a port word, or a host
read of a register (10_state.md R42). -/
inductive Input where
  | reset
  | word (p : PortWord)
  | read (a : RegAddr)
  deriving DecidableEq, Repr

/-- The RawTimingBuffer's written cells: (index, entry) pairs, indices strictly rising (log 8). A cell that is not listed has not
been written since reset, and its contents are unspecified (10_state.md R51). -/
abbrev Memory := List (Nat × Nat)

/-- The canonical form of a memory: equal contents are equal lists. -/
abbrev Memory.wf (m : Memory) : Prop := m.Pairwise (fun p q => p.1 < q.1)

/-- The state: the tuple of 10_state.md R30, the parameters (log 1), the observations, and the model's own `inputs` (log 4) and
`draws` (log 9). -/
structure State where
  /-- The parameters of 00_scope.md R7; no step changes them. -/
  cfg : Config
  /-- `st` (R31). -/
  st : ReceiverState
  /-- `cnt`, CNT_W bits (R32). -/
  cnt : Nat
  /-- `rawlen`, 8 bits (R33). -/
  rawlen : BitVec 8
  /-- `buf`, entries of CNT_W bits (R34). -/
  buf : Memory
  /-- `resp_status`, 3 bits (R35). -/
  respStatus : Status
  /-- `resp_value`, 32 bits (R35). -/
  respValue : BitVec 32
  /-- `resp_bits`, 6 bits (R35). -/
  respBits : BitVec 6
  /-- `resp_proto`, 4 bits (R35). -/
  respProto : BitVec 4
  /-- `resp_hit`, 1 bit (R35). -/
  respHit : Bool
  /-- `out_en`, 1 bit (R36). -/
  outEn : Bool
  /-- `out_khz`, 8 bits (R36). -/
  outKhz : BitVec 8
  /-- `busy`, 1 bit (R37). -/
  busy : Bool
  /-- The output trace, oldest item first: an observation (R30, 43_encoder.md R171). -/
  trace : List TraceItem
  /-- The data of the last host read: an observation of the port `rdata` (30_encoding.md R80; log 10). -/
  rdata : RegWord
  /-- The port activity still to come, oldest first, in the total order of 20_memory.md R72 (log 4). -/
  inputs : List Input
  /-- How many unspecified entries have been drawn (20_memory.md R67; log 9). -/
  draws : Nat
  deriving DecidableEq, Repr

/-- The faults: none. "The block has no trap, exception-vector or interrupt mechanism" (60_exceptions.md R190), so the type is
empty and no step can stop with a fault. -/
inductive Fault where
  deriving DecidableEq, Repr

/-- The refusals. -/
inductive Refusal where
  /-- Raised by an arm of exec that has no meaning yet; safe. No arm raises it. -/
  | notModelled (mnemonic : String)
  deriving DecidableEq, Repr

/-- The machine right after reset, for given parameters (10_state.md R51, 70_reset_and_hazards.md R210, R211). The spec gives no
value for `buf` (no cell is listed, log 8) and none for `rdata` (0, log 10); `inputs` and `draws` are the model's own
(logs 4 and 9). -/
def State.resetWith (c : Config) : State where
  cfg := c
  st := .idle
  cnt := 0
  rawlen := 0
  buf := []
  respStatus := .none
  respValue := 0
  respBits := 0
  respProto := 0
  respHit := false
  outEn := false
  outKhz := 0
  busy := false
  trace := []
  rdata := 0
  inputs := []
  draws := 0

/-- The machine right after reset in the reference configuration (00_scope.md R8; log 1), with the two parameters that have no
reference value left free (log 2). -/
def State.reset : State :=
  State.resetWith (Config.reference Config.openBitAnchor Config.openTxTimeErr)

end Sys2Proof.Machine
end

