-- ==== Sys2Proof/Machine/Operands.lean ====
section
/-! DEFINITION. What the operand fields of the commands stand for (30_encoding.md R83, R84, R88, R94; 41_matcher.md R132, R133;
43_encoder.md R175). Every field is zero-extended. -/

namespace Sys2Proof.Machine

/-- The legal operands of TRANSMIT: nbits 0 to 32 and khz 1 to 255 (30_encoding.md R88). -/
def transmitLegal (nbits : BitVec 6) (khz : BitVec 8) : Bool :=
  decide (nbits.toNat ≤ 32) && decide (khz.toNat ≠ 0)

/-- The corrected duration d of a nominal duration: a mark's is raised by EXCESS_MARK, a space's lowered by EXCESS_SPACE and may
be negative (41_matcher.md R132, R133, R135). -/
def correctedDuration (c : Config) (kind : Bool) (us : Nat) : Int :=
  if kind then (us : Int) + c.excessMark else (us : Int) - c.excessSpace

/-- `BitSel(value, nbits, i)`: the bit sent at loop position i (43_encoder.md R175). -/
def bitSel (anchor : BitAnchor) (value : BitVec 32) (nbits i : Nat) : Bool :=
  match anchor with
  | .lowField => value.getLsbD (nbits - 1 - i)
  | .topOfWord => value.getLsbD (31 - i)

end Sys2Proof.Machine
end

