-- ==== Sys2Proof/Machine/Ops.lean ====
section
/-! DEFINITION. The named operations over the buffer, the response fields and the sampler's registers (00_scope.md R10,
20_memory.md R62 to R67, 60_exceptions.md R190 to R194). -/

namespace Sys2Proof.Machine

/-- The entry last written at index `i`, if one has been written. -/
def Memory.read? : Memory → Nat → Option Nat
  | [], _ => none
  | (a, v) :: m, i => if i = a then some v else Memory.read? m i

/-- The memory with `v` at index `i`; the rising order of the indices is kept. -/
def Memory.write : Memory → Nat → Nat → Memory
  | [], i, v => [(i, v)]
  | (a, x) :: m, i, v =>
    if i < a then (i, v) :: (a, x) :: m
    else if i = a then (i, v) :: m
    else (a, x) :: Memory.write m i v

/-- 2^CNT_W: the counter and every entry are CNT_W bits wide (10_state.md R32, R34). -/
def cntModulus (c : Config) : Nat := 2 ^ c.cntW

/-- `MemRead(i, 1)` of an entry (00_scope.md R10, 20_memory.md R64): CNT_W bits. An index that nothing has written reads as the
free value of that cell (log 8). -/
def memRead (s : State) (i : Nat) : Nat :=
  ((s.buf.read? i).getD (Config.unwrittenEntry i)) % cntModulus s.cfg

/-- `MemWrite(i, 1, v)`: stores `v mod 2^CNT_W` (00_scope.md R10). -/
def memWrite (i v : Nat) (s : State) : State :=
  { s with buf := s.buf.write i (v % cntModulus s.cfg) }

/-- `Append(v)`: the only write of the buffer (20_memory.md R62). -/
def append (v : Nat) (s : State) : State :=
  { memWrite s.rawlen.toNat v s with rawlen := s.rawlen + 1 }

/-- "reset the counter". -/
def clearCnt (s : State) : State := { s with cnt := 0 }

/-- `st <- x`. -/
def goTo (x : ReceiverState) (s : State) : State := { s with st := x }

/-- `Append(cnt); cnt <- 0; st <- x`: the three arms of TICK that append end so (40_sampler.md R100). -/
def appendAndGo (x : ReceiverState) (s : State) : State :=
  goTo x (clearCnt (append s.cnt s))

/-- "clear the buffer": the length only (20_memory.md R63). -/
def clearLength (s : State) : State := { s with rawlen := 0 }

/-- `respond(status, value, bits, proto, hit)` (00_scope.md R10). -/
def respond (status : Status) (value : BitVec 32) (bits : BitVec 6) (proto : BitVec 4) (hit : Bool) (s : State) : State :=
  { s with respStatus := status, respValue := value, respBits := bits, respProto := proto, respHit := hit }

/-- `raise E`: ends the command with status E and all other response fields 0 (00_scope.md R10, 60_exceptions.md R191, R194,
42_decoder.md R160). This is the block's whole exception mechanism: nothing is saved, nothing is redirected (60_exceptions.md
R190), so there is no return from it either. -/
def raise (e : Status) (s : State) : State := respond e 0 0 0 false s

/-- The effect of the two re-arm commands (40_sampler.md R115, R116): cnt and buf are kept (R117). -/
def rearm (s : State) : State :=
  respond .ok 0 0 0 false (clearLength (goTo .idle s))

end Sys2Proof.Machine
end

