-- ==== Sys2Proof/Machine/Matcher.lean ====
section
/-! DEFINITION. The tolerance MATCHER and the MATCH command (41_matcher.md). The arithmetic is on integers, exact. -/

namespace Sys2Proof.Machine

/-- `TICKS_LOW(d) = trunc(d * (100 - TOL_PCT) / (100 * TICK_US))`, rounded toward zero (41_matcher.md R130, 00_scope.md R9). -/
def ticksLow (c : Config) (d : Int) : Int :=
  Int.tdiv (d * (100 - (c.tolPct : Int))) (100 * (c.tickUs : Int))

/-- `TICKS_HIGH(d) = trunc(d * (100 + TOL_PCT) / (100 * TICK_US)) + 1` (41_matcher.md R131). -/
def ticksHigh (c : Config) (d : Int) : Int :=
  Int.tdiv (d * (100 + (c.tolPct : Int))) (100 * (c.tickUs : Int)) + 1

/-- The measured count lies in the window of the corrected duration; both bounds are inclusive (41_matcher.md R134). -/
def inWindow (c : Config) (d : Int) (t : Nat) : Bool :=
  decide (ticksLow c d ≤ (t : Int)) && decide ((t : Int) ≤ ticksHigh c d)

/-- `MATCH_MARK(t, us)` (41_matcher.md R132). -/
def matchMark (c : Config) (t us : Nat) : Bool := inWindow c (correctedDuration c true us) t

/-- `MATCH_SPACE(t, us)` (41_matcher.md R133). -/
def matchSpace (c : Config) (t us : Nat) : Bool := inWindow c (correctedDuration c false us) t

/-- `{ hi mod 2^16, lo mod 2^16 }`: a negative bound reads as its two's complement (41_matcher.md R136). -/
def windowWord (c : Config) (d : Int) : BitVec 32 :=
  BitVec.ofInt 16 (ticksHigh c d) ++ BitVec.ofInt 16 (ticksLow c d)

/-- MATCH (41_matcher.md R136): the hit is computed from the exact bounds. -/
def execMatchWindow (kind : Bool) (ticks us : BitVec 16) (s : State) : Host.Outcome State Fault Refusal :=
  let d := correctedDuration s.cfg kind us.toNat
  .next (respond .ok (windowWord s.cfg d) 0 0 (inWindow s.cfg d ticks.toNat) s)

end Sys2Proof.Machine
end

