-- ==== Sys2Proof/Machine/Decoder.lean ====
section
/-! DEFINITION. The NEC DECODER and the TRY_DECODE command (42_decoder.md). -/

namespace Sys2Proof.Machine

/-- The checks that raise INVALID, in the order of 42_decoder.md R162. The status does not tell them apart. -/
inductive InvalidCause where
  | tooShort              -- 1: rawlen < 2 (R163)
  | headerMark            -- 2
  | tooFewEntries         -- 3: no repeat shape, and rawlen < 2·NEC_BITS + 4
  | headerSpace           -- 4
  | bitMark (i : Nat)     -- 5: the mark of bit i
  | bitSpace (i : Nat)    -- 6: the space of bit i
  deriving DecidableEq, Repr

/-- What a capture decodes to (42_decoder.md R160). -/
inductive Decoded where
  | repeatCode
  | frame (data : BitVec 32)
  deriving DecidableEq, Repr

/-- `data <- ((data << 1) | b) mod 2^32`: the first bit ends up most significant (42_decoder.md R150, R155). -/
def shiftIn (data : BitVec 32) (b : Bool) : BitVec 32 :=
  (data <<< 1) ||| (if b then 1#32 else 0#32)

/-- The class of a bit's space: ONE is tested first, then ZERO (42_decoder.md R156). -/
def classifySpace (c : Config) (t : Nat) : Option Bool :=
  if matchSpace c t c.necOneSpace then some true
  else if matchSpace c t c.necZeroSpace then some false
  else none

/-- Step 6 of 42_decoder.md R150: `todo` bits are left, bit `i` is next, its entries stand at `2·i + 3` and `2·i + 4` (the
pseudocode's `off` and `off + 1`). -/
def decodeBits (c : Config) (b : Nat → Nat) : Nat → Nat → BitVec 32 → Except InvalidCause (BitVec 32)
  | 0, _, data => .ok data
  | todo + 1, i, data =>
    if matchMark c (b (2 * i + 3)) c.necBitMark then
      match classifySpace c (b (2 * i + 4)) with
      | some x => decodeBits c b todo (i + 1) (shiftIn data x)
      | none => .error (.bitSpace i)
    else .error (.bitMark i)

/-- The repeat shape: exactly 4 entries, a repeat space and a bit mark (42_decoder.md R153). -/
def isRepeatShape (c : Config) (rawlen : Nat) (b : Nat → Nat) : Bool :=
  decide (rawlen = 4) && matchSpace c (b 2) c.necRptSpace && matchMark c (b 3) c.necBitMark

/-- The decode of a completed capture: the checks of 42_decoder.md R150 after the readiness test, in their order. DESIGN CHOICE
(log 22): a capture of more bits than NEC_BITS decodes by its first NEC_BITS bits (R150, R157), and the four entries of a
transmission of 0 bits can be the repeat shape (R153), where 43_encoder.md R180 and 90_conflicts.md C6 say INVALID of every nbits
other than NEC_BITS; in the reference configuration neither case arises. -/
def decodeCapture (c : Config) (rawlen : Nat) (b : Nat → Nat) : Except InvalidCause Decoded :=
  if rawlen < 2 then .error .tooShort
  else if !matchMark c (b 1) c.necHdrMark then .error .headerMark
  else if isRepeatShape c rawlen b then .ok .repeatCode
  else if rawlen < 2 * c.necBits + 4 then .error .tooFewEntries
  else if !matchSpace c (b 2) c.necHdrSpace then .error .headerSpace
  else match decodeBits c b c.necBits 0 0 with
    | .ok data => .ok (.frame data)
    | .error e => .error e

/-- The response of each outcome (42_decoder.md R160). -/
def respondDecode (s : State) : Except InvalidCause Decoded → State
  | .ok .repeatCode => respond .decoded s.cfg.repeatValue 0 s.cfg.protoNec false s
  | .ok (.frame data) => respond .decoded data (BitVec.ofNat 6 s.cfg.necBits) s.cfg.protoNec false s
  | .error _ => raise .invalid s

/-- TRY_DECODE (42_decoder.md R150): readiness first (R151); only resp_* is written (R158). -/
def execTryDecode (s : State) : Host.Outcome State Fault Refusal :=
  .next (if s.st = .stopped then respondDecode s (decodeCapture s.cfg s.rawlen.toNat (memRead s)) else raise .notReady s)

end Sys2Proof.Machine
end

