-- ==== Sys2Proof/Machine/Encoder.lean ====
section
/-! DEFINITION. The NEC ENCODER and the TRANSMIT command (43_encoder.md). -/

namespace Sys2Proof.Machine

/-- What an item of the output trace does to the outputs (43_encoder.md R171). SPACE(0) disables the output too (R174). -/
def drive (item : TraceItem) (s : State) : State :=
  match item with
  | .cfg khz => { s with outKhz := khz, outEn := false }
  | .mark _ => { s with outEn := true }
  | .space _ => { s with outEn := false }

/-- `emit(item)` with its effect on the outputs (43_encoder.md R170, R171). -/
def emit (s : State) (item : TraceItem) : State :=
  { drive item s with trace := s.trace ++ [item] }

/-- The two segments of the bit at loop position i (43_encoder.md R170, R173). -/
def bitItems (c : Config) (value : BitVec 32) (nbits i : Nat) : List TraceItem :=
  [.mark c.necBitMark,
   .space (if bitSel c.encBitAnchor value nbits i then c.necOneSpace else c.necZeroSpace)]

/-- The whole transmission, in order (43_encoder.md R170, R172, R174, R179). -/
def transmitItems (c : Config) (value : BitVec 32) (nbits : Nat) (khz : BitVec 8) : List TraceItem :=
  [.cfg khz, .mark c.necHdrMark, .space c.necHdrSpace]
    ++ (List.range nbits).flatMap (bitItems c value nbits)
    ++ [.mark c.necBitMark, .space 0]

/-- The state inside a TRANSMIT after its acceptance and the first k items: busy is 1 (43_encoder.md R170, R177). Inner states of
one atomic step (20_memory.md R72; log 6). -/
def transmitPhase (value : BitVec 32) (nbits : Nat) (khz : BitVec 8) (k : Nat) (s : State) : State :=
  ((transmitItems s.cfg value nbits khz).take k).foldl emit { s with busy := true }

/-- `busy <- 0; respond(OK, 0, 0, 0, 0)` (43_encoder.md R170). -/
def transmitEnd (s : State) : State := respond .ok 0 0 0 false { s with busy := false }

/-- TRANSMIT (43_encoder.md R170): illegal operands raise ILLEGAL and emit nothing (30_encoding.md R88); otherwise every item is
emitted and the command ends. -/
def execTransmit (value : BitVec 32) (nbits : BitVec 6) (khz : BitVec 8) (s : State) : Host.Outcome State Fault Refusal :=
  if transmitLegal nbits khz then
    .next (transmitEnd
      (transmitPhase value nbits.toNat khz (transmitItems s.cfg value nbits.toNat khz).length s))
  else .next (raise .illegal s)

end Sys2Proof.Machine
end

