-- ==== Sys2Proof/Machine/Reserved.lean ====
section
/-! DEFINITION. The reserved rows of the opcode table: each completes as ILLEGAL and changes only the response fields
(30_encoding.md R86, R87; 60_exceptions.md R194). -/

namespace Sys2Proof.Machine

/-- op 0b000 (30_encoding.md R86). -/
def execReservedOp0 (s : State) : Host.Outcome State Fault Refusal := .next (raise .illegal s)

/-- op 0b110 (30_encoding.md R86). -/
def execReservedOp6 (s : State) : Host.Outcome State Fault Refusal := .next (raise .illegal s)

/-- op 0b111 (30_encoding.md R86). -/
def execReservedOp7 (s : State) : Host.Outcome State Fault Refusal := .next (raise .illegal s)

/-- A defined op with a reserved bit set (30_encoding.md R87). -/
def execReservedBits (s : State) : Host.Outcome State Fault Refusal := .next (raise .illegal s)

end Sys2Proof.Machine
end

