-- ==== Sys2Proof/Machine/Flags.lean ====
section
/-! DEFINITION. The derived flags and the codes of the enumerated fields (10_state.md R31, R38, R39; 60_exceptions.md R191). -/

namespace Sys2Proof.Machine

/-- `ready`: `(st == Stopped)` (10_state.md R38). -/
def ready (s : State) : Bool := decide (s.st = .stopped)

/-- `ovf`: `(rawlen == RAWBUF)` (10_state.md R39, 60_exceptions.md R195). -/
def ovf (s : State) : Bool := decide (s.rawlen.toNat = s.cfg.rawBuf)

/-- The test of the overflow override: `rawlen >= RAWBUF` (40_sampler.md R102, R103). -/
def overRun (s : State) : Bool := decide (s.cfg.rawBuf ≤ s.rawlen.toNat)

/-- `isMark(L)`: `(L == MARK_LEVEL)`; every other level is a space (00_scope.md R10, 40_sampler.md R113). -/
def isMark (c : Config) (level : Level) : Bool := level == c.markLevel

/-- The 2-bit encoding of ReceiverState (10_state.md R31). -/
def ReceiverState.code : ReceiverState → BitVec 2
  | .idle => 0
  | .timingMark => 1
  | .timingSpace => 2
  | .stopped => 3

/-- The 3-bit status codes (60_exceptions.md R191). -/
def Status.code : Status → BitVec 3
  | .none => 0
  | .ok => 1
  | .decoded => 2
  | .notReady => 3
  | .invalid => 4
  | .illegal => 5

end Sys2Proof.Machine
end

