-- ==== Sys2Proof/Machine/Sampler.lean ====
section
/-! DEFINITION. The SAMPLER: TICK and the two re-arm commands (40_sampler.md). -/

namespace Sys2Proof.Machine

/-- `cnt <- (cnt + 1) mod 2^CNT_W`, first of all, in every state (40_sampler.md R101). -/
def countTick (s : State) : State := { s with cnt := (s.cnt + 1) % cntModulus s.cfg }

/-- The buffer-overflow override (40_sampler.md R102). -/
def overflowOverride (s : State) : State := if overRun s then goTo .stopped s else s

/-- The Idle arm: a mark is noise below GAP_TICKS and the end of a genuine gap from there up (40_sampler.md R100, R104). -/
def idleArm (m : Bool) (s : State) : State :=
  if m then
    if s.cnt < s.cfg.gapTicks then clearCnt s else appendAndGo .timingMark (clearLength s)
  else s

/-- The TimingMark arm: a space ends the mark; there is no timeout (40_sampler.md R100, R109). -/
def timingMarkArm (m : Bool) (s : State) : State :=
  if m then s else appendAndGo .timingSpace s

/-- The TimingSpace arm: a mark ends the space; a space longer than GAP_TICKS ends the capture, without an Append and with cnt
kept (40_sampler.md R100, R105). -/
def timingSpaceArm (m : Bool) (s : State) : State :=
  if m then appendAndGo .timingMark s
  else if s.cfg.gapTicks < s.cnt then goTo .stopped s
  else s

/-- The Stopped arm: a mark resets the counter; the buffer is left alone (40_sampler.md R100, R107). -/
def stoppedArm (m : Bool) (s : State) : State := if m then clearCnt s else s

/-- `case st of` (40_sampler.md R100). -/
def samplerArm (m : Bool) (s : State) : State :=
  match s.st with
  | .idle => idleArm m s
  | .timingMark => timingMarkArm m s
  | .timingSpace => timingSpaceArm m s
  | .stopped => stoppedArm m s

/-- One step of the SAMPLER (40_sampler.md R100, in the order of 60_exceptions.md R196). -/
def tickStep (level : Level) (s : State) : State :=
  samplerArm (isMark s.cfg level) (overflowOverride (countTick s))

/-- TICK (40_sampler.md R100): it cannot fail. -/
def execTick (level : Level) (s : State) : Host.Outcome State Fault Refusal := .next (tickStep level s)

/-- START_RECEIVING (40_sampler.md R115). -/
def execStartReceiving (s : State) : Host.Outcome State Fault Refusal := .next (rearm s)

/-- RESET_CAPTURE (40_sampler.md R116): the same effect. -/
def execResetCapture (s : State) : Host.Outcome State Fault Refusal := .next (rearm s)

end Sys2Proof.Machine
end

