-- ==== Sys2Proof/Machine/Dispatch.lean ====
section
/-! DEFINITION. The dispatch: one arm for each constructor of Instr. -/

namespace Sys2Proof.Machine

def exec (i : Instr) (s : State) : Host.Outcome State Fault Refusal :=
  match i with
  | .tick level => Sys2Proof.Machine.execTick level s
  | .startReceiving => Sys2Proof.Machine.execStartReceiving s
  | .resetCapture => Sys2Proof.Machine.execResetCapture s
  | .tryDecode => Sys2Proof.Machine.execTryDecode s
  | .transmit value nbits khz => Sys2Proof.Machine.execTransmit value nbits khz s
  | .matchWindow kind ticks us => Sys2Proof.Machine.execMatchWindow kind ticks us s
  | .reservedOp0 _ => Sys2Proof.Machine.execReservedOp0 s
  | .reservedOp6 _ => Sys2Proof.Machine.execReservedOp6 s
  | .reservedOp7 _ => Sys2Proof.Machine.execReservedOp7 s
  | .reservedBits _ => Sys2Proof.Machine.execReservedBits s

end Sys2Proof.Machine
end

