-- ==== Sys2Proof/Machine/Registers.lean ====
section
/-! DEFINITION. The register map of the host read port (10_state.md R42 to R49). `{a, b}` has a in the high bits (00_scope.md
R9). -/

namespace Sys2Proof.Machine

/-- STATUS (10_state.md R43). -/
def statusWord (s : State) : RegWord :=
  0#8 ++ s.outKhz ++ s.rawlen ++ 0#2 ++ BitVec.ofBool s.outEn ++ BitVec.ofBool s.busy
    ++ BitVec.ofBool (ovf s) ++ BitVec.ofBool (ready s) ++ s.st.code

/-- COUNT: cnt in bits [CNT_W-1:0], the rest 0 (10_state.md R44). -/
def countWord (s : State) : RegWord := BitVec.ofNat 32 (s.cnt % cntModulus s.cfg)

/-- RESP (10_state.md R45). -/
def respWord (s : State) : RegWord :=
  0#18 ++ s.respBits ++ s.respProto ++ BitVec.ofBool s.respHit ++ s.respStatus.code

/-- RESULT (10_state.md R46). -/
def resultWord (s : State) : RegWord := s.respValue

/-- CONFIG: RAWBUF, CNT_W, two zero bits, GAP_TICKS mod 2^16 (10_state.md R47). -/
def configWord (c : Config) : RegWord :=
  BitVec.ofNat 16 c.gapTicks ++ 0#2 ++ BitVec.ofNat 6 c.cntW ++ BitVec.ofNat 8 c.rawBuf

/-- The index of the buffer window that raddr names, if it names one: 0x100 + i for 0 ≤ i < RAWBUF (10_state.md R42, R48). -/
def bufIndex? (c : Config) (a : RegAddr) : Option Nat :=
  if 0x100 ≤ a.toNat ∧ a.toNat < 0x100 + c.rawBuf then some (a.toNat - 0x100) else none

/-- A read of BUF[i]: below rawlen the entry, from rawlen up an unspecified CNT_W-bit value, drawn afresh (10_state.md R48,
20_memory.md R67; log 9). -/
def bufWord (i : Nat) (s : State) : RegWord × State :=
  if i < s.rawlen.toNat then (BitVec.ofNat 32 (memRead s i), s)
  else (BitVec.ofNat 32 (Config.freeEntry s.draws % cntModulus s.cfg), { s with draws := s.draws + 1 })

/-- A read of one register; an unmapped raddr reads 0 (10_state.md R42, R49). -/
def readRegister (a : RegAddr) (s : State) : RegWord × State :=
  match a.toNat with
  | 0 => (statusWord s, s)
  | 1 => (countWord s, s)
  | 2 => (respWord s, s)
  | 3 => (resultWord s, s)
  | 4 => (configWord s.cfg, s)
  | _ =>
    match bufIndex? s.cfg a with
    | some i => bufWord i s
    | none => (0, s)

/-- The step of a host read: the data appears on `rdata` (30_encoding.md R80, 20_memory.md R72; log 10). -/
def hostRead (a : RegAddr) (s : State) : State :=
  { (readRegister a s).2 with rdata := (readRegister a s).1 }

end Sys2Proof.Machine
end

