-- ==== Sys2Proof/Machine/Ports.lean ====
section
/-! DEFINITION. The ports: which piece of port activity the block takes next, reset, and the output ports (30_encoding.md R80,
R90, R91; 70_reset_and_hazards.md R210). -/

namespace Sys2Proof.Machine

/-- A command offered on the command port. -/
def Input.isCommand : Input → Bool
  | .word (.command _) => true
  | .word (.event _) => false
  | .reset => false
  | .read _ => false

/-- The output port `cmd_ready`: 1 exactly when busy is 0, and 0 in a reset cycle (30_encoding.md R90, 70_reset_and_hazards.md
R210). -/
def cmdReady (rst : Bool) (s : State) : Bool := !rst && !s.busy

/-- The next piece of port activity and what is left. A command offered while the port is not ready waits, still offered, and
whatever is no command goes by it (30_encoding.md R90, R91; 40_sampler.md R111; log 7). -/
def nextInput (cmdReady : Bool) : List Input → Option (Input × List Input)
  | [] => none
  | i :: rest =>
    if i.isCommand && !cmdReady then
      match nextInput cmdReady rest with
      | some (j, rest') => some (j, i :: rest')
      | none => none
    else some (i, rest)

/-- A cycle with rst = 1: every element takes its reset value and the trace starts empty; no TICK and no command is processed
(70_reset_and_hazards.md R210, 10_state.md R51). The parameters stay, the port activity to come stays, and draws stay fresh
(log 12). -/
def resetCycle (s : State) : State :=
  { State.resetWith s.cfg with inputs := s.inputs, draws := s.draws }

end Sys2Proof.Machine
end

