-- ==== Sys2Proof/Machine/Step.lean ====
section
/-! DEFINITION. One step: the next piece of port activity, whole and atomic (20_memory.md R72). -/

namespace Sys2Proof.Machine

/-- One step (20_memory.md R72). With nothing on the ports the block keeps its state (60_exceptions.md R204; log 5). An event
word without a strobe is ignored (30_encoding.md R89). -/
def step (s : State) : Host.Outcome State Fault Refusal :=
  match nextInput (cmdReady false s) s.inputs with
  | none => .next s
  | some (.reset, rest) => .next (resetCycle { s with inputs := rest })
  | some (.read a, rest) => .next (hostRead a { s with inputs := rest })
  | some (.word p, rest) =>
    match decode p with
    | .ok i => exec i { s with inputs := rest }
    | .error .noStrobe => .next { s with inputs := rest }

/-- `s` with a table row's word offered first: an event word on tick / ir_in, or a command word on a port that is ready (logs 4
and 14). -/
def State.withFetchWord (s : State) (nbits w : Nat) : State :=
  match portWordOf nbits w with
  | .event e => { s with inputs := .word (.event e) :: s.inputs }
  | .command c => { s with inputs := .word (.command c) :: s.inputs, busy := false }

end Sys2Proof.Machine
end

