-- ==== Sys2Proof/Machine/Replay.lean ====
section
/-! DEFINITION. Sequences of TICKs, and how a transmission looks to a SAMPLER (30_encoding.md R93, 43_encoder.md R178, R180). The
terms in which statements about many ticks are made; no step uses them. -/

namespace Sys2Proof.Machine

/-- The SAMPLER after a sequence of TICKs, the first level first. -/
def feed (levels : List Level) (s : State) : State := levels.foldl (fun t level => tickStep level t) s

/-- `MARKS n` (30_encoding.md R93). -/
def markTicks (c : Config) (n : Nat) : List Level := List.replicate n c.markLevel

/-- `SPACES n` (30_encoding.md R93). -/
def spaceTicks (c : Config) (n : Nat) : List Level := List.replicate n (!c.markLevel)

/-- The samples of one trace item that lasts n samples; CFG takes no time (43_encoder.md R180, R182). -/
def itemTicks (c : Config) (item : TraceItem) (n : Nat) : List Level :=
  match item with
  | .cfg _ => []
  | .mark _ => markTicks c n
  | .space _ => spaceTicks c n

/-- The samples of a trace, with one sample count for each item. -/
def replay (c : Config) : List TraceItem → List Nat → List Level
  | item :: items, n :: counts => itemTicks c item n ++ replay c items counts
  | _, _ => []

/-- The sample count of one segment, as the round trip asks for it: a mark's count and a space's count lie in the window of the
nominal duration (43_encoder.md R180), and fit the counter; a space is not so long that it ends the capture (40_sampler.md R105;
log 16); the terminator is followed by at least GAP_TICKS + 2 samples of space. -/
def countFits (c : Config) (item : TraceItem) (n : Nat) : Prop :=
  match item with
  | .cfg _ => True
  | .mark us => 1 ≤ n ∧ n < cntModulus c ∧ matchMark c n us = true
  | .space us =>
    if us = 0 then c.gapTicks + 2 ≤ n
    else 1 ≤ n ∧ n ≤ c.gapTicks + 1 ∧ matchSpace c n us = true

/-- Every item of a trace has a count that fits. -/
def countsFit (c : Config) (items : List TraceItem) (counts : List Nat) : Prop :=
  List.Forall₂ (countFits c) items counts

/-- n samples are possible for a segment of nominal duration d: some real duration within TX_TIME_ERR of d has n as its quotient
by TICK_US rounded down or up (43_encoder.md R180; log 20). -/
def PossibleCount (c : Config) (d n : Nat) : Prop :=
  ((n : Int) - 1) * c.tickUs < (d : Int) + c.txTimeErr ∧ (d : Int) - c.txTimeErr < ((n : Int) + 1) * c.tickUs

/-- The nominal time of one trace item, µs (43_encoder.md R171). -/
def itemTime : TraceItem → Nat
  | .cfg _ => 0
  | .mark us => us
  | .space us => us

/-- How many of the sent bits are 1 (43_encoder.md R178). -/
def sentOnes (c : Config) (value : BitVec 32) (nbits : Nat) : Nat :=
  ((List.range nbits).filter (bitSel c.encBitAnchor value nbits)).length

/-- T_tx, the nominal time of a TRANSMIT, µs (43_encoder.md R178). -/
def transmitTime (c : Config) (value : BitVec 32) (nbits : Nat) : Nat :=
  c.necHdrMark + c.necHdrSpace + (nbits + 1) * c.necBitMark
    + sentOnes c value nbits * c.necOneSpace + (nbits - sentOnes c value nbits) * c.necZeroSpace

end Sys2Proof.Machine
end

