-- ==== Sys2Proof/Safety.lean ====
section
/-! DEFINITION. What every reachable state meets: the invariant of claims (10_state.md R32 to R40, 60_exceptions.md R191). -/

namespace Sys2Proof.Machine

/-- The other fields of a response, by its status (60_exceptions.md R191): DECODED carries a value, a bit count and the protocol;
OK a value and a hit; every other status nothing. -/
def responseFits (s : State) : Prop :=
  match s.respStatus with
  | .decoded => s.respProto = s.cfg.protoNec ∧ s.respHit = false ∧ s.respBits.toNat ≤ 32
  | .ok => s.respBits = 0 ∧ s.respProto = 0
  | .none => s.respValue = 0 ∧ s.respBits = 0 ∧ s.respProto = 0 ∧ s.respHit = false
  | .notReady => s.respValue = 0 ∧ s.respBits = 0 ∧ s.respProto = 0 ∧ s.respHit = false
  | .invalid => s.respValue = 0 ∧ s.respBits = 0 ∧ s.respProto = 0 ∧ s.respHit = false
  | .illegal => s.respValue = 0 ∧ s.respBits = 0 ∧ s.respProto = 0 ∧ s.respHit = false

/-- What holds of the length of the buffer in each state of the SAMPLER (10_state.md R40), and in TimingSpace of the counter,
which the trailing-gap test keeps at GAP_TICKS or below (40_sampler.md R105, R108). -/
def lengthFits (s : State) : Prop :=
  match s.st with
  | .idle => s.rawlen.toNat = 0
  | .timingMark => s.rawlen.toNat % 2 = 1 ∧ 1 ≤ s.rawlen.toNat
  | .timingSpace => s.rawlen.toNat % 2 = 0 ∧ 2 ≤ s.rawlen.toNat ∧ s.cnt ≤ s.cfg.gapTicks
  | .stopped => (s.rawlen.toNat % 2 = 0 ∧ 2 ≤ s.rawlen.toNat) ∨ s.rawlen.toNat = s.cfg.rawBuf

/-- The invariant. -/
structure State.Inv (s : State) : Prop where
  /-- The parameters meet the constraints of 00_scope.md R7. -/
  cfgValid : s.cfg.Valid
  /-- cnt is CNT_W bits wide (10_state.md R32). -/
  cntWidth : s.cnt < cntModulus s.cfg
  /-- rawlen ≤ RAWBUF (10_state.md R33, R40). -/
  rawlenBound : s.rawlen.toNat ≤ s.cfg.rawBuf
  /-- 10_state.md R40, by the state of the SAMPLER. -/
  lengthOk : lengthFits s
  /-- The memory has its canonical form. -/
  bufWf : s.buf.wf
  /-- Every written cell is a cell of the buffer and holds CNT_W bits (10_state.md R34). -/
  bufBounds : ∀ p ∈ s.buf, p.1 < s.cfg.rawBuf ∧ p.2 < cntModulus s.cfg
  /-- Every entry that rawlen counts has been written (10_state.md R33). -/
  captured : ∀ i, i < s.rawlen.toNat → (s.buf.read? i).isSome
  /-- busy is 1 only inside a TRANSMIT (10_state.md R37). -/
  notBusy : s.busy = false
  /-- out_en is 0 after every TRANSMIT (10_state.md R36). -/
  outputOff : s.outEn = false
  /-- The response fields fit the status (60_exceptions.md R191). -/
  responseOk : responseFits s

end Sys2Proof.Machine
end

