-- ==== Sys2Proof/Certificates/Slice0/Obligations.lean ====
section
/-! DEFINITION. What is claimed of the machine, from the numbered rules of spec/. Every statement holds for every parameter
setting of the state unless it says otherwise (`Config.Valid` is the constraint column of 00_scope.md R7). -/

open Sys2Proof
open Sys2Proof.Machine

/-! ### Encoding -/

/-- Words written out bit by bit from the encoding column of 30_encoding.md R92 and from 95_test_vectors.md (P5, M-47, X-11,
S-5) decode to the operations they stand for; TX 0x20DF10EF, 32, 38 and MATCH 136, 9000, MARK among them. -/
def Obligations.WrittenWordsDecodeAsTheTableSays : Prop :=
  decode (.event 0b10#2) = .ok (.tick false) ∧
  decode (.event 0b11#2) = .ok (.tick true) ∧
  decode (.command 0x0000000000000001#64) = .ok .startReceiving ∧
  decode (.command 0x0000000000000002#64) = .ok .resetCapture ∧
  decode (.command 0x0000000000000003#64) = .ok .tryDecode ∧
  decode (.command 0x20DF10EF00004D04#64) = .ok (.transmit 0x20DF10EF#32 32#6 38#8) ∧
  decode (.command 0x000023280088000D#64) = .ok (.matchWindow true 136#16 9000#16) ∧
  decode (.command 0x0000119400410005#64) = .ok (.matchWindow false 65#16 4500#16) ∧
  decode (.command 0x0000000000000000#64) = .ok (.reservedOp0 0#61) ∧
  decode (.command 0x0000000000000006#64) = .ok (.reservedOp6 0#61) ∧
  decode (.command 0x000000000000000F#64) = .ok (.reservedOp7 1#61) ∧
  decode (.command 0x000023280088001D#64) = .ok (.reservedBits 0x000023280088001D#64) ∧
  decode (.command 0x0000000000024D04#64) = .ok (.reservedBits 0x0000000000024D04#64) ∧
  decode (.command 0x0000000000000009#64) = .ok (.reservedBits 0x0000000000000009#64)

/-- Every well-formed operation is what its own word decodes to, with every operand at every value of its field (30_encoding.md
R81 to R89). -/
def Obligations.DecodingAnEncodedOperationGivesItBack : Prop :=
  ∀ i : Instr, i.wellFormed = true → decode (encode i) = .ok i

/-- Every port word has one meaning: what it decodes to is well-formed and encodes to the same word, and the only port words
that are no operation are the event words without a strobe (30_encoding.md R86, R87, R89). -/
def Obligations.EveryPortWordHasOneMeaning : Prop :=
  ∀ p : PortWord,
    (∀ i, decode p = .ok i → i.wellFormed = true ∧ encode i = p) ∧
    ((∃ e, decode p = .error e) ↔ p = .event 0b00#2 ∨ p = .event 0b01#2)

/-! ### The step -/

/-- A step runs the decoded operation: an event word is always taken, a command word when busy is 0, and the rest of the port
activity is left for later (20_memory.md R72, 30_encoding.md R90). An event word without a strobe changes nothing (R89), and with
nothing on the ports the state stays (the model's choice, log 5). -/
def Obligations.StepRunsTheDecodedOperation : Prop :=
  (∀ (s : State) (p : PortWord) (rest : List Input) (i : Instr),
    s.inputs = .word p :: rest → (s.busy = false ∨ ∃ e, p = .event e) → decode p = .ok i → i.wellFormed = true →
      step s = exec i { s with inputs := rest }) ∧
  (∀ (s : State) (e : EventWord) (rest : List Input),
    s.inputs = .word (.event e) :: rest → e.getLsbD 1 = false → step s = .next { s with inputs := rest }) ∧
  (∀ s : State, s.inputs = [] → step s = .next s)

/-- A table row's word that `withFetchWord` places is run by the very next step, whatever waits behind it (the model's
convention, logs 4 and 14). -/
def Obligations.APlacedWordRunsNext : Prop :=
  ∀ (s : State) (nbits w : Nat) (i : Instr), decodeTableWord nbits w = some i →
    ∃ b, step (s.withFetchWord nbits w) = exec i { s with busy := b } ∧ (s.busy = false → b = false)

/-- While busy is 1 the command port accepts nothing: commands offered alone wait, and a strobe behind any number of waiting
commands still runs its TICK and leaves them offered in their order (30_encoding.md R90, R91; 40_sampler.md R111). -/
def Obligations.BusyPortLeavesCommandsWaiting : Prop :=
  ∀ (s : State) (ws : List CommandWord) (e : EventWord) (rest : List Input),
    s.busy = true →
    (s.inputs = ws.map (fun w => Input.word (.command w)) → step s = .next s) ∧
    (s.inputs = ws.map (fun w => Input.word (.command w)) ++ .word (.event e) :: rest → e.getLsbD 1 = true →
      step s = exec (.tick (e.getLsbD 0))
        { s with inputs := ws.map (fun w => Input.word (.command w)) ++ rest })

/-- A reset cycle, whatever the state, gives every element the reset value of 10_state.md R51 and an empty trace, and processes
nothing of the port activity behind it; cmd_ready is 0 in it (70_reset_and_hazards.md R210). The parameters stay. -/
def Obligations.ResetCycleGivesTheResetValues : Prop :=
  ∀ (s : State) (rest : List Input), s.inputs = .reset :: rest →
    cmdReady true s = false ∧
    ∃ t, step s = .next t ∧
      t.st = .idle ∧ t.cnt = 0 ∧ t.rawlen = 0 ∧ t.respStatus = .none ∧ t.respValue = 0 ∧ t.respBits = 0 ∧
      t.respProto = 0 ∧ t.respHit = false ∧ t.outEn = false ∧ t.outKhz = 0 ∧ t.busy = false ∧ t.trace = [] ∧
      t.cfg = s.cfg ∧ t.inputs = rest

/-- Every step completes: the block has no trap, and no operation stops it (60_exceptions.md R190; 40_sampler.md R100). No
parameter ever changes (00_scope.md R7, 10_state.md R47). -/
def Obligations.EveryStepCompletesAndKeepsTheParameters : Prop :=
  ∀ s : State, ∃ t, step s = .next t ∧ t.cfg = s.cfg

/-- The state after reset meets the invariant, for every parameter setting that meets the constraints, the reference
configuration among them. -/
def Obligations.ResetMeetsTheInvariant : Prop :=
  (∀ c : Config, c.Valid → (State.resetWith c).Inv) ∧
  (∀ (anchor : BitAnchor) (err : Nat), (Config.reference anchor err).Valid) ∧
  State.reset.Inv

/-- Every step keeps the invariant: the five points of 10_state.md R40, the widths and the canonical form of the buffer, busy and
out_en 0 between steps, and the response fields that fit the status (60_exceptions.md R191). -/
def Obligations.EveryStepKeepsTheInvariant : Prop :=
  ∀ s t : State, s.Inv → step s = .next t → t.Inv

/-! ### TICK -/

/-- TICK, row by row: the increment first, then the overflow override, then the arm of the state (40_sampler.md R100, R101,
R103). `n` is the counter after the increment. Everything a row does not name is unchanged. -/
def Obligations.TickFollowsTheTransitionTable : Prop :=
  ∀ (s : State) (level : Level),
    let n := (s.cnt + 1) % 2 ^ s.cfg.cntW
    let mark := level = s.cfg.markLevel
    let ovr := s.cfg.rawBuf ≤ s.rawlen.toNat
    ∃ t, exec (.tick level) s = .next t ∧
      (ovr → mark → t = { s with cnt := 0, st := .stopped }) ∧
      (ovr → ¬mark → t = { s with cnt := n, st := .stopped }) ∧
      (¬ovr → s.st = .idle → ¬mark → t = { s with cnt := n }) ∧
      (¬ovr → s.st = .idle → mark → n < s.cfg.gapTicks → t = { s with cnt := 0 }) ∧
      (¬ovr → s.st = .idle → mark → s.cfg.gapTicks ≤ n →
        t = { s with cnt := 0, st := .timingMark, rawlen := 1, buf := s.buf.write 0 n }) ∧
      (¬ovr → s.st = .timingMark → mark → t = { s with cnt := n }) ∧
      (¬ovr → s.st = .timingMark → ¬mark →
        t = { s with cnt := 0, st := .timingSpace, rawlen := s.rawlen + 1, buf := s.buf.write s.rawlen.toNat n }) ∧
      (¬ovr → s.st = .timingSpace → mark →
        t = { s with cnt := 0, st := .timingMark, rawlen := s.rawlen + 1, buf := s.buf.write s.rawlen.toNat n }) ∧
      (¬ovr → s.st = .timingSpace → ¬mark → n ≤ s.cfg.gapTicks → t = { s with cnt := n }) ∧
      (¬ovr → s.st = .timingSpace → ¬mark → s.cfg.gapTicks < n → t = { s with cnt := n, st := .stopped }) ∧
      (¬ovr → s.st = .stopped → mark → t = { s with cnt := 0 }) ∧
      (¬ovr → s.st = .stopped → ¬mark → t = { s with cnt := n })

/-- The frame of TICK: it writes no response field, no output, no busy; every entry but the one it appends (entry 0 in the gap arm
of Idle, entry rawlen in the two other appending arms) reads as before, and a TICK that appends nothing leaves every entry
(40_sampler.md R100, 20_memory.md R62). -/
def Obligations.TickLeavesEverythingElse : Prop :=
  ∀ (s : State) (level : Level),
    let n := (s.cnt + 1) % 2 ^ s.cfg.cntW
    let appends := s.rawlen.toNat < s.cfg.rawBuf ∧
      ((s.st = .idle ∧ level = s.cfg.markLevel ∧ s.cfg.gapTicks ≤ n) ∨
       (s.st = .timingMark ∧ level ≠ s.cfg.markLevel) ∨
       (s.st = .timingSpace ∧ level = s.cfg.markLevel))
    ∃ t, exec (.tick level) s = .next t ∧
      t.respStatus = s.respStatus ∧ t.respValue = s.respValue ∧ t.respBits = s.respBits ∧ t.respProto = s.respProto ∧
      t.respHit = s.respHit ∧ t.outEn = s.outEn ∧ t.outKhz = s.outKhz ∧ t.busy = s.busy ∧ t.trace = s.trace ∧
      t.rdata = s.rdata ∧ t.inputs = s.inputs ∧ t.draws = s.draws ∧ t.cfg = s.cfg ∧
      (appends → ∀ a, a ≠ (if s.st = .idle then 0 else s.rawlen.toNat) → memRead t a = memRead s a) ∧
      (¬appends → ∀ a, memRead t a = memRead s a)

/-- The SAMPLER depends only on the level and on its own state: two states that agree on the parameters, st, cnt, rawlen and buf
still agree on them after any sequence of TICKs (40_sampler.md R112). -/
def Obligations.SamplerDependsOnlyOnItsOwnState : Prop :=
  ∀ (s s' : State) (levels : List Level),
    s'.cfg = s.cfg → s'.st = s.st → s'.cnt = s.cnt → s'.rawlen = s.rawlen → s'.buf = s.buf →
    (feed levels s').st = (feed levels s).st ∧ (feed levels s').cnt = (feed levels s).cnt ∧
    (feed levels s').rawlen = (feed levels s).rawlen ∧ (feed levels s').buf = (feed levels s).buf

/-- A gap starts a capture exactly when it is long enough: from Idle with an empty buffer and a counter just reset, n space ticks
and a mark make one noise reset when the count (n + 1 modulo 2^CNT_W) is below GAP_TICKS, and a capture whose entry 0 is that
count otherwise (40_sampler.md R104, R108; 70_reset_and_hazards.md R217). -/
def Obligations.AGapStartsACapture : Prop :=
  ∀ (s : State) (n : Nat),
    s.cfg.Valid → s.st = .idle → s.rawlen = 0 → s.cnt = 0 →
    let count := (n + 1) % 2 ^ s.cfg.cntW
    feed (spaceTicks s.cfg n ++ markTicks s.cfg 1) s =
      if count < s.cfg.gapTicks then s
      else { s with st := .timingMark, rawlen := 1, buf := s.buf.write 0 count }

/-- The trailing gap ends a capture on the (GAP_TICKS + 2)-th space sample of the space, the first of which entered TimingSpace
and set cnt to 0; the space is not appended and the counter is kept (40_sampler.md R105). -/
def Obligations.TheTrailingGapEndsACapture : Prop :=
  ∀ s : State,
    s.cfg.Valid → s.st = .timingSpace → s.cnt = 0 → s.rawlen.toNat < s.cfg.rawBuf →
    (∀ k, k ≤ s.cfg.gapTicks → feed (spaceTicks s.cfg k) s = { s with cnt := k }) ∧
    feed (spaceTicks s.cfg (s.cfg.gapTicks + 1)) s = { s with cnt := s.cfg.gapTicks + 1, st := .stopped }

/-- A run of N = k + 1 mark samples, the first of which entered TimingMark, is appended as N modulo 2^CNT_W on the first space
sample, with no limit on N; a run of N space samples that the trailing gap does not end is appended as N on the first mark sample
(40_sampler.md R106, R109). -/
def Obligations.AnEntryIsTheSampleCountOfItsRun : Prop :=
  ∀ (s : State) (k : Nat),
    s.cfg.Valid → s.cnt = 0 → s.rawlen.toNat < s.cfg.rawBuf →
    (s.st = .timingMark →
      feed (markTicks s.cfg k ++ spaceTicks s.cfg 1) s =
        { s with st := .timingSpace, rawlen := s.rawlen + 1,
                 buf := s.buf.write s.rawlen.toNat ((k + 1) % 2 ^ s.cfg.cntW) }) ∧
    (s.st = .timingSpace → k ≤ s.cfg.gapTicks →
      feed (spaceTicks s.cfg k ++ markTicks s.cfg 1) s =
        { s with st := .timingMark, rawlen := s.rawlen + 1,
                 buf := s.buf.write s.rawlen.toNat (k + 1) })

/-- A mark has no timeout: a mark level held for any number of ticks keeps TimingMark, counts, and appends nothing
(40_sampler.md R108, R109). -/
def Obligations.AMarkHasNoTimeout : Prop :=
  ∀ (s : State) (n : Nat),
    s.st = .timingMark → s.rawlen.toNat < s.cfg.rawBuf → s.cnt < 2 ^ s.cfg.cntW →
    feed (markTicks s.cfg n) s = { s with cnt := (s.cnt + n) % 2 ^ s.cfg.cntW }

/-- No sequence of TICKs makes the buffer longer than RAWBUF or touches a cell from RAWBUF up (40_sampler.md R102, 20_memory.md
R62). -/
def Obligations.TicksNeverWriteBeyondCapacity : Prop :=
  ∀ (s : State) (levels : List Level),
    s.cfg.Valid → s.rawlen.toNat ≤ s.cfg.rawBuf →
    (feed levels s).rawlen.toNat ≤ s.cfg.rawBuf ∧
    ∀ i, s.cfg.rawBuf ≤ i → (feed levels s).buf.read? i = s.buf.read? i

/-- While Stopped no sequence of TICKs changes st, rawlen or any entry, and a TRY_DECODE after it gives the response it would have
given before it (20_memory.md R74, 42_decoder.md R164). -/
def Obligations.AStoppedCaptureIsStable : Prop :=
  ∀ (s : State) (levels : List Level), s.st = .stopped →
    (feed levels s).st = .stopped ∧ (feed levels s).rawlen = s.rawlen ∧ (feed levels s).buf = s.buf ∧
    ∃ u v, exec .tryDecode s = .next u ∧ exec .tryDecode (feed levels s) = .next v ∧
      v.respStatus = u.respStatus ∧ v.respValue = u.respValue ∧ v.respBits = u.respBits ∧
      v.respProto = u.respProto ∧ v.respHit = u.respHit

/-- A stored entry reads back as the stored value modulo 2^CNT_W, and every other entry reads as before (20_memory.md R62, R64). -/
def Obligations.AnAppendedEntryReadsBack : Prop :=
  ∀ (s : State) (v : Nat), s.rawlen.toNat < 255 →
    (append v s).rawlen.toNat = s.rawlen.toNat + 1 ∧
    memRead (append v s) s.rawlen.toNat = v % 2 ^ s.cfg.cntW ∧
    ∀ i, i ≠ s.rawlen.toNat → memRead (append v s) i = memRead s i

/-! ### The re-arm commands -/

/-- START_RECEIVING and RESET_CAPTURE: st becomes Idle, rawlen 0, the response OK with zeros; cnt, every entry and everything else
stay, in every state. On the command port they are the words 1 and 2, and any other word with their ops is ILLEGAL and changes only
the response fields (40_sampler.md R115, R116, R117). -/
def Obligations.RearmSetsIdleAndEmpty : Prop :=
  ∀ s : State,
    let rearmed := fun t : State =>
      { t with st := .idle, rawlen := 0, respStatus := .ok, respValue := 0, respBits := 0, respProto := 0, respHit := false }
    exec .startReceiving s = .next (rearmed s) ∧
    exec .resetCapture s = .next (rearmed s) ∧
    ∀ (w : CommandWord) (rest : List Input), s.inputs = .word (.command w) :: rest → s.busy = false →
      (w = 1 ∨ w = 2 → step s = .next (rearmed { s with inputs := rest })) ∧
      (w.extractLsb' 0 3 = 1 ∨ w.extractLsb' 0 3 = 2 → w ≠ 1 → w ≠ 2 →
        step s = .next { s with inputs := rest, respStatus := .illegal, respValue := 0, respBits := 0, respProto := 0, respHit := false })

/-- A TICK and a RESET_CAPTURE of one cycle, in both orders: if the TICK goes first the reset discards its append; if the reset
goes first the TICK runs in Idle, where only a genuine gap appends (60_exceptions.md R197). -/
def Obligations.ResetAndTickInEitherOrder : Prop :=
  ∀ (s : State) (level : Level), s.cfg.Valid →
    (∃ t u, exec (.tick level) s = .next t ∧ exec .resetCapture t = .next u ∧ u.st = .idle ∧ u.rawlen = 0) ∧
    (∃ t u, exec .resetCapture s = .next t ∧ exec (.tick level) t = .next u ∧
      let gap := level = s.cfg.markLevel ∧ s.cfg.gapTicks ≤ (s.cnt + 1) % 2 ^ s.cfg.cntW
      (gap → u.st = .timingMark ∧ u.rawlen = 1 ∧ memRead u 0 = (s.cnt + 1) % 2 ^ s.cfg.cntW) ∧
      (¬gap → u.st = .idle ∧ u.rawlen = 0 ∧ u.buf = s.buf))

/-- A TRY_DECODE in the cycle where a TICK sets st = Stopped, in both orders: before the TICK it answers NOT_READY and the TICK still
stops the capture; after it it answers the decode of the capture (60_exceptions.md R197). -/
def Obligations.DecodeAndTickInEitherOrder : Prop :=
  ∀ (s t : State) (level : Level), s.st ≠ .stopped → exec (.tick level) s = .next t → t.st = .stopped →
    (∃ u v, exec .tryDecode s = .next u ∧ u.respStatus = .notReady ∧ exec (.tick level) u = .next v ∧
      v.st = .stopped ∧ v.rawlen = t.rawlen ∧ v.buf = t.buf ∧ v.respStatus = .notReady) ∧
    (∃ u, exec .tryDecode t = .next u ∧ (u.respStatus = .decoded ∨ u.respStatus = .invalid) ∧
      u.st = .stopped ∧ u.rawlen = t.rawlen ∧ u.buf = t.buf)

/-! ### The matcher -/

/-- The window bounds are the exact quotients rounded toward zero, the high one plus 1 (41_matcher.md R130, R131). -/
def Obligations.WindowBoundsRoundTowardZero : Prop :=
  ∀ (c : Config) (d : Int), c.Valid →
    let den : Int := 100 * c.tickUs
    let lo := ticksLow c d
    let hi := ticksHigh c d - 1
    (0 ≤ d → 0 ≤ lo ∧ lo * den ≤ d * (100 - c.tolPct) ∧ d * (100 - c.tolPct) < (lo + 1) * den) ∧
    (d ≤ 0 → lo ≤ 0 ∧ d * (100 - c.tolPct) ≤ lo * den ∧ (lo - 1) * den < d * (100 - c.tolPct)) ∧
    (0 ≤ d → 0 ≤ hi ∧ hi * den ≤ d * (100 + c.tolPct) ∧ d * (100 + c.tolPct) < (hi + 1) * den) ∧
    (d ≤ 0 → hi ≤ 0 ∧ d * (100 + c.tolPct) ≤ hi * den ∧ (hi - 1) * den < d * (100 + c.tolPct))

/-- Both bounds of a window are inclusive and the counts beside them do not match, for every mark and for every space whose
corrected duration is not negative; where both bounds are negative nothing matches (41_matcher.md R134, R135). -/
def Obligations.WindowBoundsAreInclusive : Prop :=
  ∀ (c : Config) (us t : Nat), c.Valid →
    (((t : Int) = ticksLow c (us + c.excessMark) → matchMark c t us = true) ∧
     ((t : Int) = ticksHigh c (us + c.excessMark) → matchMark c t us = true) ∧
     ((t : Int) + 1 = ticksLow c (us + c.excessMark) → matchMark c t us = false) ∧
     ((t : Int) = ticksHigh c (us + c.excessMark) + 1 → matchMark c t us = false)) ∧
    (c.excessSpace ≤ us →
     ((t : Int) = ticksLow c (us - c.excessSpace) → matchSpace c t us = true) ∧
     ((t : Int) = ticksHigh c (us - c.excessSpace) → matchSpace c t us = true) ∧
     ((t : Int) + 1 = ticksLow c (us - c.excessSpace) → matchSpace c t us = false) ∧
     ((t : Int) = ticksHigh c (us - c.excessSpace) + 1 → matchSpace c t us = false)) ∧
    (ticksHigh c (us - c.excessSpace) < 0 → matchSpace c t us = false)

/-- The six windows of the reference configuration, as 41_matcher.md R138 lists them. -/
def Obligations.ReferenceWindowsAreAsListed : Prop :=
  ∀ (anchor : BitAnchor) (err : Nat),
    let c := Config.reference anchor err
    let window := fun kind us => (ticksLow c (correctedDuration c kind us), ticksHigh c (correctedDuration c kind us))
    window true c.necHdrMark = (136, 228) ∧ window false c.necHdrSpace = (66, 111) ∧ window true c.necBitMark = (9, 17) ∧
    window false c.necOneSpace = (23, 40) ∧ window false c.necZeroSpace = (6, 12) ∧ window false c.necRptSpace = (32, 54)

/-- MATCH: the hit is the comparison with the exact bounds, RESULT holds the bounds modulo 2^16, the high one in the high half;
status OK, bits and proto 0, and nothing but the response changes (41_matcher.md R130, R131, R136). -/
def Obligations.MatchReportsTheWindowAndTheHit : Prop :=
  ∀ (s : State) (kind : Bool) (ticks us : BitVec 16),
    let d : Int := if kind then us.toNat + s.cfg.excessMark else us.toNat - s.cfg.excessSpace
    let lo := Int.tdiv (d * (100 - s.cfg.tolPct)) (100 * s.cfg.tickUs)
    let hi := Int.tdiv (d * (100 + s.cfg.tolPct)) (100 * s.cfg.tickUs) + 1
    ∃ v : BitVec 32,
      exec (.matchWindow kind ticks us) s = .next { s with respStatus := .ok, respValue := v, respBits := 0, respProto := 0, respHit := decide (lo ≤ ticks.toNat ∧ (ticks.toNat : Int) ≤ hi) } ∧
      (v.toNat : Int) = (hi % 65536) * 65536 + lo % 65536

/-! ### TRY_DECODE -/

/-- TRY_DECODE before the capture is complete answers NOT_READY with zeros, whatever the buffer holds, and changes nothing else
(42_decoder.md R151, 60_exceptions.md R192). -/
def Obligations.DecodeBeforeStoppedIsNotReady : Prop :=
  ∀ s : State, s.st ≠ .stopped →
    exec .tryDecode s = .next { s with respStatus := .notReady, respValue := 0, respBits := 0, respProto := 0, respHit := false }

/-- A Stopped capture of exactly 4 entries whose header mark matches is a repeat code when entry 2 matches the repeat space and
entry 3 the bit mark, and INVALID otherwise (42_decoder.md R153). -/
def Obligations.FourEntriesAreARepeatCodeOrInvalid : Prop :=
  ∀ s : State, s.cfg.Valid → s.st = .stopped → s.rawlen = 4 → matchMark s.cfg (memRead s 1) s.cfg.necHdrMark = true →
    let isRepeat := matchSpace s.cfg (memRead s 2) s.cfg.necRptSpace = true ∧
      matchMark s.cfg (memRead s 3) s.cfg.necBitMark = true
    (isRepeat →
      exec .tryDecode s = .next { s with respStatus := .decoded, respValue := s.cfg.repeatValue, respBits := 0, respProto := s.cfg.protoNec, respHit := false }) ∧
    (¬isRepeat →
      exec .tryDecode s = .next { s with respStatus := .invalid, respValue := 0, respBits := 0, respProto := 0, respHit := false })

/-- A Stopped capture of at least 2·NEC_BITS + 4 entries whose header and bits all match decodes to DECODED with NEC_BITS bits:
the first bit pair becomes bit NEC_BITS - 1 of the value and the last pair bit 0, a bit is 1 exactly when its space matches
NEC_ONE_SPACE (tested first), and the bits from NEC_BITS up are 0 (42_decoder.md R150, R154, R155, R156). -/
def Obligations.AFullFrameDecodesFirstBitHighest : Prop :=
  ∀ s : State, s.cfg.Valid → s.st = .stopped → 2 * s.cfg.necBits + 4 ≤ s.rawlen.toNat →
    matchMark s.cfg (memRead s 1) s.cfg.necHdrMark = true →
    matchSpace s.cfg (memRead s 2) s.cfg.necHdrSpace = true →
    (∀ i, i < s.cfg.necBits →
      matchMark s.cfg (memRead s (2 * i + 3)) s.cfg.necBitMark = true ∧
      (matchSpace s.cfg (memRead s (2 * i + 4)) s.cfg.necOneSpace = true ∨
       matchSpace s.cfg (memRead s (2 * i + 4)) s.cfg.necZeroSpace = true)) →
    ∃ v : BitVec 32,
      exec .tryDecode s = .next { s with respStatus := .decoded, respValue := v, respBits := BitVec.ofNat 6 s.cfg.necBits, respProto := s.cfg.protoNec, respHit := false } ∧
      (∀ i, i < s.cfg.necBits →
        v.getLsbD (s.cfg.necBits - 1 - i) = matchSpace s.cfg (memRead s (2 * i + 4)) s.cfg.necOneSpace) ∧
      (∀ j, s.cfg.necBits ≤ j → v.getLsbD j = false)

/-- INVALID is raised by exactly the six checks of 42_decoder.md R162, each one only when every check before it passes, and it
answers zeros and changes nothing else. -/
def Obligations.InvalidIsRaisedByTheSixChecksInOrder : Prop :=
  ∀ s : State, s.st = .stopped →
    let c := s.cfg
    let n := s.rawlen.toNat
    let b := memRead s
    let long := 2 ≤ n
    let header := matchMark c (b 1) c.necHdrMark = true
    let isRepeat := n = 4 ∧ matchSpace c (b 2) c.necRptSpace = true ∧ matchMark c (b 3) c.necBitMark = true
    let enough := 2 * c.necBits + 4 ≤ n
    let headerSpace := matchSpace c (b 2) c.necHdrSpace = true
    let mark := fun i => matchMark c (b (2 * i + 3)) c.necBitMark = true
    let space := fun i => matchSpace c (b (2 * i + 4)) c.necOneSpace = true ∨ matchSpace c (b (2 * i + 4)) c.necZeroSpace = true
    let reached := long ∧ header ∧ ¬isRepeat ∧ enough ∧ headerSpace
    (decodeCapture c n b = .error .tooShort ↔ ¬long) ∧
    (decodeCapture c n b = .error .headerMark ↔ long ∧ ¬header) ∧
    (decodeCapture c n b = .error .tooFewEntries ↔ long ∧ header ∧ ¬isRepeat ∧ ¬enough) ∧
    (decodeCapture c n b = .error .headerSpace ↔ long ∧ header ∧ ¬isRepeat ∧ enough ∧ ¬headerSpace) ∧
    (∀ i, decodeCapture c n b = .error (.bitMark i) ↔
      reached ∧ i < c.necBits ∧ (∀ j, j < i → mark j ∧ space j) ∧ ¬mark i) ∧
    (∀ i, decodeCapture c n b = .error (.bitSpace i) ↔
      reached ∧ i < c.necBits ∧ (∀ j, j < i → mark j ∧ space j) ∧ mark i ∧ ¬space i) ∧
    ((∃ cause, decodeCapture c n b = .error cause) →
      exec .tryDecode s = .next { s with respStatus := .invalid, respValue := 0, respBits := 0, respProto := 0, respHit := false }) ∧
    ((∀ cause, decodeCapture c n b ≠ .error cause) →
      ∃ t, exec .tryDecode s = .next t ∧ t.respStatus = .decoded)

/-- TRY_DECODE completes in every state and writes only the response fields; a second TRY_DECODE changes nothing more
(42_decoder.md R158). -/
def Obligations.DecodeKeepsTheCaptureAndRepeats : Prop :=
  ∀ s : State, ∃ t, exec .tryDecode s = .next t ∧
    t = { s with respStatus := t.respStatus, respValue := t.respValue, respBits := t.respBits, respProto := t.respProto, respHit := t.respHit } ∧
    exec .tryDecode t = .next t

/-- The gap, the trailing mark and every entry after it have no effect: two states that agree on st, rawlen, the parameters and
the entries 1 to 2·NEC_BITS + 2 get the same response (42_decoder.md R152, R157). -/
def Obligations.UncheckedEntriesHaveNoEffect : Prop :=
  ∀ s s' : State, s.cfg.Valid → s'.cfg = s.cfg → s'.st = s.st → s'.rawlen = s.rawlen →
    (∀ i, 1 ≤ i → i ≤ 2 * s.cfg.necBits + 2 → memRead s' i = memRead s i) →
    ∃ t t', exec .tryDecode s = .next t ∧ exec .tryDecode s' = .next t' ∧
      t'.respStatus = t.respStatus ∧ t'.respValue = t.respValue ∧ t'.respBits = t.respBits ∧
      t'.respProto = t.respProto ∧ t'.respHit = t.respHit

/-- The DECODER never reads an unspecified entry: what the buffer holds from rawlen up has no effect on the response
(42_decoder.md R150, 20_memory.md R67). -/
def Obligations.DecodeNeverReadsPastTheLength : Prop :=
  ∀ (s : State) (m : Memory), (∀ i, i < s.rawlen.toNat → m.read? i = s.buf.read? i) →
    ∃ t t', exec .tryDecode s = .next t ∧ exec .tryDecode { s with buf := m } = .next t' ∧
      t' = { t with buf := m }

/-- A repeat code and a full frame are told apart by the bit count: a DECODED answer has 0 bits exactly when the capture has
4 entries, and NEC_BITS bits otherwise (42_decoder.md R161). -/
def Obligations.BitCountTellsRepeatFromFrame : Prop :=
  ∀ s t : State, s.cfg.Valid → s.st = .stopped → exec .tryDecode s = .next t → t.respStatus = .decoded →
    (t.respBits = 0 ↔ s.rawlen = 4) ∧ (s.rawlen = 4 → t.respValue = s.cfg.repeatValue) ∧
    (s.rawlen ≠ 4 → t.respBits.toNat = s.cfg.necBits)

/-! ### TRANSMIT -/

/-- TRANSMIT with legal operands: the trace grows by CFG, the header mark and space, for each bit (most significant of the
anchored field first) a bit mark and a one or zero space, the closing bit mark and SPACE(0), with nominal durations; out_khz is
khz, out_en and busy are 0, the response is OK with zeros, and the SAMPLER and everything else stay (43_encoder.md R170, R172 to
R175). -/
def Obligations.TransmitEmitsTheFrame : Prop :=
  ∀ (s : State) (value : BitVec 32) (nbits : BitVec 6) (khz : BitVec 8), nbits.toNat ≤ 32 → khz ≠ 0 →
    let n := nbits.toNat
    let sent := fun i => match s.cfg.encBitAnchor with
      | .lowField => value.getLsbD (n - 1 - i)
      | .topOfWord => value.getLsbD (31 - i)
    exec (.transmit value nbits khz) s = .next { s with
      outEn := false, outKhz := khz, busy := false, respStatus := .ok, respValue := 0, respBits := 0, respProto := 0, respHit := false,
      trace := s.trace ++ ([.cfg khz, .mark s.cfg.necHdrMark, .space s.cfg.necHdrSpace] ++
        (List.range n).flatMap (fun i =>
          [TraceItem.mark s.cfg.necBitMark, .space (if sent i then s.cfg.necOneSpace else s.cfg.necZeroSpace)]) ++
        [.mark s.cfg.necBitMark, .space 0]) }

/-- TRANSMIT with nbits > 32 or khz = 0 is ILLEGAL: it emits nothing and changes only the response fields (30_encoding.md R88,
60_exceptions.md R194). -/
def Obligations.IllegalTransmitEmitsNothing : Prop :=
  ∀ (s : State) (value : BitVec 32) (nbits : BitVec 6) (khz : BitVec 8), (32 < nbits.toNat ∨ khz = 0) →
    exec (.transmit value nbits khz) s = .next { s with respStatus := .illegal, respValue := 0, respBits := 0, respProto := 0, respHit := false }

/-- A TRANSMIT emits 2·nbits + 5 items, and their nominal durations add up to T_tx (43_encoder.md R178). -/
def Obligations.TransmitLengthAndTime : Prop :=
  ∀ (c : Config) (value : BitVec 32) (n : Nat) (khz : BitVec 8),
    (transmitItems c value n khz).length = 2 * n + 5 ∧
    ((transmitItems c value n khz).map itemTime).sum =
      c.necHdrMark + c.necHdrSpace + (n + 1) * c.necBitMark
        + sentOnes c value n * c.necOneSpace + (n - sentOnes c value n) * c.necZeroSpace

/-- With all 32 bits the two anchors give the same transmission (43_encoder.md R175). -/
def Obligations.AnchorsAgreeOnFullWords : Prop :=
  ∀ (c : Config) (value : BitVec 32) (khz : BitVec 8) (anchor anchor' : BitAnchor),
    transmitItems { c with encBitAnchor := anchor } value 32 khz = transmitItems { c with encBitAnchor := anchor' } value 32 khz

/-- Inside a TRANSMIT, after its acceptance and any number of items, busy is 1, no offered command is accepted, the outputs are
those of the last item, and the SAMPLER is not touched (43_encoder.md R171, R177; 10_state.md R37). -/
def Obligations.BusyHoldsDuringATransmission : Prop :=
  ∀ (s : State) (value : BitVec 32) (nbits : Nat) (khz : BitVec 8) (k : Nat) (ws : List CommandWord),
    let t := transmitPhase value nbits khz k s
    t.busy = true ∧ cmdReady false t = false ∧
    step { t with inputs := ws.map (fun w => Input.word (.command w)) } =
      .next { t with inputs := ws.map (fun w => Input.word (.command w)) } ∧
    t.st = s.st ∧ t.cnt = s.cnt ∧ t.rawlen = s.rawlen ∧ t.buf = s.buf ∧
    t.trace = s.trace ++ (transmitItems s.cfg value nbits khz).take k ∧
    (k = 0 → t.outEn = s.outEn ∧ t.outKhz = s.outKhz) ∧
    (0 < k → t.outKhz = khz) ∧
    (∀ us, ((transmitItems s.cfg value nbits khz).take k).getLast? = some (.mark us) → t.outEn = true) ∧
    (∀ us, ((transmitItems s.cfg value nbits khz).take k).getLast? = some (.space us) → t.outEn = false) ∧
    (((transmitItems s.cfg value nbits khz).take k).getLast? = some (.cfg khz) → t.outEn = false)

/-- The tick agent keeps running during a TRANSMIT: a TICK after any number of its items gives the same final state as the
TICK after the whole transmission, and as the TICK before it (43_encoder.md R181, R182). -/
def Obligations.TicksDuringATransmissionCommute : Prop :=
  ∀ (s : State) (level : Level) (value : BitVec 32) (nbits : BitVec 6) (khz : BitVec 8), nbits.toNat ≤ 32 → khz ≠ 0 →
    ∃ t u v, exec (.tick level) s = .next t ∧ exec (.transmit value nbits khz) t = .next u ∧
      exec (.transmit value nbits khz) s = .next v ∧ exec (.tick level) v = .next u ∧
      ∀ k, transmitEnd (((transmitItems s.cfg value nbits.toNat khz).drop k).foldl emit
        (tickStep level (transmitPhase value nbits.toNat khz k s))) = u

/-! ### Illegal words and rights -/

/-- The reserved operations complete as ILLEGAL with zeros and change only the response fields (30_encoding.md R86, R87). -/
def Obligations.ReservedOperationsAreIllegal : Prop :=
  ∀ (s : State) (rest : BitVec 61) (w : CommandWord),
    let t := { s with respStatus := .illegal, respValue := 0, respBits := 0, respProto := 0, respHit := false }
    exec (.reservedOp0 rest) s = .next t ∧ exec (.reservedOp6 rest) s = .next t ∧ exec (.reservedOp7 rest) s = .next t ∧
    exec (.reservedBits w) s = .next t

/-- A command word answers ILLEGAL exactly when its op is 0, 6 or 7, a reserved bit of its format is 1, or it is a TRANSMIT with
nbits > 32 or khz = 0; then only the response fields change (60_exceptions.md R194, 30_encoding.md R82 to R88). -/
def Obligations.ExactlyTheListedWordsAreIllegal : Prop :=
  ∀ (s : State) (w : CommandWord) (rest : List Input),
    s.inputs = .word (.command w) :: rest → s.busy = false →
    let op := (w.extractLsb' 0 3).toNat
    let illegal :=
      op = 0 ∨ op = 6 ∨ op = 7 ∨
      ((op = 1 ∨ op = 2 ∨ op = 3) ∧ ∃ k, 3 ≤ k ∧ k ≤ 63 ∧ w.getLsbD k = true) ∨
      (op = 4 ∧ ((∃ k, 17 ≤ k ∧ k ≤ 31 ∧ w.getLsbD k = true) ∨
        32 < (w.extractLsb' 3 6).toNat ∨ (w.extractLsb' 9 8).toNat = 0)) ∨
      (op = 5 ∧ ∃ k, ((4 ≤ k ∧ k ≤ 15) ∨ (48 ≤ k ∧ k ≤ 63)) ∧ w.getLsbD k = true)
    (illegal → step s = .next { s with inputs := rest, respStatus := .illegal, respValue := 0, respBits := 0, respProto := 0, respHit := false }) ∧
    (¬illegal → ∃ t, step s = .next t ∧ t.respStatus ≠ .illegal)

/-- The agents' rights: only TICK writes cnt or the buffer, only TICK and the two re-arm commands write st and rawlen (the re-arm
commands Idle and 0), and TICK writes no response field, no output and no busy (60_exceptions.md R199, 10_state.md R50). -/
def Obligations.AgentsWriteOnlyWhatTheyMay : Prop :=
  ∀ (i : Instr) (s : State), ∃ t, exec i s = .next t ∧
    ((∃ level, i = .tick level) →
      t.respStatus = s.respStatus ∧ t.respValue = s.respValue ∧ t.respBits = s.respBits ∧ t.respProto = s.respProto ∧
      t.respHit = s.respHit ∧ t.outEn = s.outEn ∧ t.outKhz = s.outKhz ∧ t.busy = s.busy) ∧
    ((∀ level, i ≠ .tick level) → t.cnt = s.cnt ∧ t.buf = s.buf) ∧
    ((∀ level, i ≠ .tick level) → i ≠ .startReceiving → i ≠ .resetCapture → t.st = s.st ∧ t.rawlen = s.rawlen) ∧
    (i = .startReceiving ∨ i = .resetCapture → t.st = .idle ∧ t.rawlen = 0)

/-! ### The register map -/

/-- STATUS: st, ready, ovf, busy, out_en, rawlen and out_khz in their fields, the reserved bits 0, and the read changes nothing but
rdata (10_state.md R38, R39, R43). -/
def Obligations.StatusReadsItsFields : Prop :=
  ∀ (s : State) (rest : List Input), s.inputs = .read 0x000#12 :: rest →
    ∃ v : RegWord, step s = .next { s with inputs := rest, rdata := v } ∧
      (v.extractLsb' 0 2).toNat = (match s.st with | .idle => 0 | .timingMark => 1 | .timingSpace => 2 | .stopped => 3) ∧
      v.getLsbD 2 = decide (s.st = .stopped) ∧ v.getLsbD 3 = decide (s.rawlen.toNat = s.cfg.rawBuf) ∧
      v.getLsbD 4 = s.busy ∧ v.getLsbD 5 = s.outEn ∧ v.extractLsb' 6 2 = 0 ∧ v.extractLsb' 8 8 = s.rawlen ∧
      v.extractLsb' 16 8 = s.outKhz ∧ v.extractLsb' 24 8 = 0

/-- COUNT, RESP, RESULT and CONFIG: their fields in their places, the reserved bits 0, and the read changes nothing but rdata
(10_state.md R44 to R47, 60_exceptions.md R191). -/
def Obligations.TheOtherRegistersReadTheirFields : Prop :=
  ∀ (s : State) (rest : List Input), s.cfg.Valid →
    (s.inputs = .read 0x001#12 :: rest →
      ∃ v : RegWord, step s = .next { s with inputs := rest, rdata := v } ∧ v.toNat = s.cnt % 2 ^ s.cfg.cntW) ∧
    (s.inputs = .read 0x002#12 :: rest →
      ∃ v : RegWord, step s = .next { s with inputs := rest, rdata := v } ∧
        (v.extractLsb' 0 3).toNat = (match s.respStatus with
          | .none => 0 | .ok => 1 | .decoded => 2 | .notReady => 3 | .invalid => 4 | .illegal => 5) ∧
        v.getLsbD 3 = s.respHit ∧ v.extractLsb' 4 4 = s.respProto ∧ v.extractLsb' 8 6 = s.respBits ∧
        v.extractLsb' 14 18 = 0) ∧
    (s.inputs = .read 0x003#12 :: rest → step s = .next { s with inputs := rest, rdata := s.respValue }) ∧
    (s.inputs = .read 0x004#12 :: rest →
      ∃ v : RegWord, step s = .next { s with inputs := rest, rdata := v } ∧
        (v.extractLsb' 0 8).toNat = s.cfg.rawBuf ∧ (v.extractLsb' 8 6).toNat = s.cfg.cntW ∧ v.extractLsb' 14 2 = 0 ∧
        (v.extractLsb' 16 16).toNat = s.cfg.gapTicks % 2 ^ 16)

/-- BUF[i] below rawlen reads the entry, zero-extended; a read changes nothing but rdata (10_state.md R48, 20_memory.md R70, R71).
An unmapped address reads 0 (10_state.md R49). -/
def Obligations.BufferWindowAndUnmappedReads : Prop :=
  ∀ (s : State) (a : RegAddr) (rest : List Input), s.cfg.Valid → s.inputs = .read a :: rest →
    (∀ i, a.toNat = 0x100 + i → i < s.cfg.rawBuf → i < s.rawlen.toNat →
      ∃ v : RegWord, step s = .next { s with inputs := rest, rdata := v } ∧ v.toNat = memRead s i) ∧
    ((5 ≤ a.toNat ∧ a.toNat ≤ 0xFF) ∨ 0x100 + s.cfg.rawBuf ≤ a.toNat →
      step s = .next { s with inputs := rest, rdata := 0 })

/-- BUF[i] from rawlen up reads an unspecified CNT_W-bit value and changes no state of the block; no read, of any register, lets
out what a stale cell holds: buffers that agree below rawlen read alike everywhere (20_memory.md R67, R71). -/
def Obligations.StaleEntriesAreNeverReadAsKnown : Prop :=
  ∀ (s : State) (a : RegAddr) (rest : List Input) (m : Memory), s.cfg.Valid → s.inputs = .read a :: rest →
    (∀ i, i < s.rawlen.toNat → m.read? i = s.buf.read? i) →
    ∃ t, step s = .next t ∧ step { s with buf := m } = .next { t with buf := m } ∧
      t = { s with inputs := rest, rdata := t.rdata, draws := t.draws } ∧
      (∀ i, a.toNat = 0x100 + i → i < s.cfg.rawBuf → t.rdata.toNat < 2 ^ s.cfg.cntW)

/-! ### The round trip -/

/-- Decoding a replayed transmission gives the sent bits: a TRANSMIT of NEC_BITS bits, replayed into the SAMPLER from Idle after
at least GAP_TICKS - 1 space ticks, with a sample count for each segment that lies in its window (and the terminator followed by
at least GAP_TICKS + 2 samples of space), ends in a capture that TRY_DECODE answers with DECODED, NEC_BITS bits and the sent bits,
the first sent bit highest (43_encoder.md R180). The premises that 43_encoder.md R180 leaves unsaid are the model's reading: the buffer holds a
full frame (00_scope.md R7), no space is long enough to end the capture (40_sampler.md R105; log 16), no zero-space count also
matches the one space (41_matcher.md R138), and the gap does not wrap the counter (40_sampler.md R108). -/
def Obligations.ATransmissionReplayedDecodesToItsValue : Prop :=
  ∀ (s : State) (value : BitVec 32) (khz : BitVec 8) (counts : List Nat),
    let c := s.cfg
    let n := c.necBits
    c.Valid → s.st = .idle → s.rawlen = 0 → c.gapTicks ≤ s.cnt + 1 → s.cnt + 1 < 2 ^ c.cntW →
    2 * n + 4 ≤ c.rawBuf →
    (∀ t, matchSpace c t c.necZeroSpace = true → matchSpace c t c.necOneSpace = false) →
    countsFit c (transmitItems c value n khz) counts →
    let t := feed (replay c (transmitItems c value n khz) counts) s
    ∃ v : BitVec 32,
      exec .tryDecode t = .next { t with respStatus := .decoded, respValue := v, respBits := BitVec.ofNat 6 n, respProto := c.protoNec, respHit := false } ∧
      (∀ i, i < n → v.getLsbD (n - 1 - i) = bitSel c.encBitAnchor value n i) ∧
      (∀ j, n ≤ j → v.getLsbD j = false)

/-- In the reference configuration an exactly timed segment has a sample count in its window at every phase, the counts 43_encoder.md R180
lists, and one that may be more than 40 µs off can make a zero-bit space of 13 samples, which is outside (43_encoder.md R180). -/
def Obligations.ReferenceSampleCountsLieInTheirWindows : Prop :=
  ∀ (anchor : BitAnchor) (n : Nat),
    (let c := Config.reference anchor 0
     (PossibleCount c c.necHdrMark n ↔ n = 180) ∧ (PossibleCount c c.necHdrSpace n ↔ n = 90) ∧
     (PossibleCount c c.necBitMark n ↔ n = 11 ∨ n = 12) ∧ (PossibleCount c c.necOneSpace n ↔ n = 33 ∨ n = 34) ∧
     (PossibleCount c c.necZeroSpace n ↔ n = 11 ∨ n = 12) ∧
     (PossibleCount c c.necHdrMark n → matchMark c n c.necHdrMark = true) ∧
     (PossibleCount c c.necHdrSpace n → matchSpace c n c.necHdrSpace = true) ∧
     (PossibleCount c c.necBitMark n → matchMark c n c.necBitMark = true) ∧
     (PossibleCount c c.necOneSpace n → matchSpace c n c.necOneSpace = true) ∧
     (PossibleCount c c.necZeroSpace n → matchSpace c n c.necZeroSpace = true)) ∧
    (∀ err, let c := Config.reference anchor err
      (PossibleCount c c.necZeroSpace 13 ↔ 40 < err) ∧ matchSpace c 13 c.necZeroSpace = false)
end

