-- ==== Sys2Proof/Laws/State.lean ====
section
/-! SUPPORT. One lemma for each field of State under each operation that updates it, so that no proof unfolds a record update. -/

namespace Sys2Proof.Machine

@[simp] theorem memWrite_cfg (i v : Nat) (s : State) : (memWrite i v s).cfg = s.cfg := rfl
@[simp] theorem memWrite_st (i v : Nat) (s : State) : (memWrite i v s).st = s.st := rfl
@[simp] theorem memWrite_cnt (i v : Nat) (s : State) : (memWrite i v s).cnt = s.cnt := rfl
@[simp] theorem memWrite_rawlen (i v : Nat) (s : State) : (memWrite i v s).rawlen = s.rawlen := rfl
@[simp] theorem memWrite_buf (i v : Nat) (s : State) : (memWrite i v s).buf = s.buf.write i (v % cntModulus s.cfg) := rfl
@[simp] theorem memWrite_respStatus (i v : Nat) (s : State) : (memWrite i v s).respStatus = s.respStatus := rfl
@[simp] theorem memWrite_respValue (i v : Nat) (s : State) : (memWrite i v s).respValue = s.respValue := rfl
@[simp] theorem memWrite_respBits (i v : Nat) (s : State) : (memWrite i v s).respBits = s.respBits := rfl
@[simp] theorem memWrite_respProto (i v : Nat) (s : State) : (memWrite i v s).respProto = s.respProto := rfl
@[simp] theorem memWrite_respHit (i v : Nat) (s : State) : (memWrite i v s).respHit = s.respHit := rfl
@[simp] theorem memWrite_outEn (i v : Nat) (s : State) : (memWrite i v s).outEn = s.outEn := rfl
@[simp] theorem memWrite_outKhz (i v : Nat) (s : State) : (memWrite i v s).outKhz = s.outKhz := rfl
@[simp] theorem memWrite_busy (i v : Nat) (s : State) : (memWrite i v s).busy = s.busy := rfl
@[simp] theorem memWrite_trace (i v : Nat) (s : State) : (memWrite i v s).trace = s.trace := rfl
@[simp] theorem memWrite_rdata (i v : Nat) (s : State) : (memWrite i v s).rdata = s.rdata := rfl
@[simp] theorem memWrite_inputs (i v : Nat) (s : State) : (memWrite i v s).inputs = s.inputs := rfl
@[simp] theorem memWrite_draws (i v : Nat) (s : State) : (memWrite i v s).draws = s.draws := rfl

@[simp] theorem append_cfg (v : Nat) (s : State) : (append v s).cfg = s.cfg := rfl
@[simp] theorem append_st (v : Nat) (s : State) : (append v s).st = s.st := rfl
@[simp] theorem append_cnt (v : Nat) (s : State) : (append v s).cnt = s.cnt := rfl
@[simp] theorem append_rawlen (v : Nat) (s : State) : (append v s).rawlen = s.rawlen + 1 := rfl
@[simp] theorem append_buf (v : Nat) (s : State) : (append v s).buf = s.buf.write s.rawlen.toNat (v % cntModulus s.cfg) := rfl
@[simp] theorem append_respStatus (v : Nat) (s : State) : (append v s).respStatus = s.respStatus := rfl
@[simp] theorem append_respValue (v : Nat) (s : State) : (append v s).respValue = s.respValue := rfl
@[simp] theorem append_respBits (v : Nat) (s : State) : (append v s).respBits = s.respBits := rfl
@[simp] theorem append_respProto (v : Nat) (s : State) : (append v s).respProto = s.respProto := rfl
@[simp] theorem append_respHit (v : Nat) (s : State) : (append v s).respHit = s.respHit := rfl
@[simp] theorem append_outEn (v : Nat) (s : State) : (append v s).outEn = s.outEn := rfl
@[simp] theorem append_outKhz (v : Nat) (s : State) : (append v s).outKhz = s.outKhz := rfl
@[simp] theorem append_busy (v : Nat) (s : State) : (append v s).busy = s.busy := rfl
@[simp] theorem append_trace (v : Nat) (s : State) : (append v s).trace = s.trace := rfl
@[simp] theorem append_rdata (v : Nat) (s : State) : (append v s).rdata = s.rdata := rfl
@[simp] theorem append_inputs (v : Nat) (s : State) : (append v s).inputs = s.inputs := rfl
@[simp] theorem append_draws (v : Nat) (s : State) : (append v s).draws = s.draws := rfl

@[simp] theorem clearCnt_cfg (s : State) : (clearCnt s).cfg = s.cfg := rfl
@[simp] theorem clearCnt_st (s : State) : (clearCnt s).st = s.st := rfl
@[simp] theorem clearCnt_cnt (s : State) : (clearCnt s).cnt = 0 := rfl
@[simp] theorem clearCnt_rawlen (s : State) : (clearCnt s).rawlen = s.rawlen := rfl
@[simp] theorem clearCnt_buf (s : State) : (clearCnt s).buf = s.buf := rfl
@[simp] theorem clearCnt_respStatus (s : State) : (clearCnt s).respStatus = s.respStatus := rfl
@[simp] theorem clearCnt_respValue (s : State) : (clearCnt s).respValue = s.respValue := rfl
@[simp] theorem clearCnt_respBits (s : State) : (clearCnt s).respBits = s.respBits := rfl
@[simp] theorem clearCnt_respProto (s : State) : (clearCnt s).respProto = s.respProto := rfl
@[simp] theorem clearCnt_respHit (s : State) : (clearCnt s).respHit = s.respHit := rfl
@[simp] theorem clearCnt_outEn (s : State) : (clearCnt s).outEn = s.outEn := rfl
@[simp] theorem clearCnt_outKhz (s : State) : (clearCnt s).outKhz = s.outKhz := rfl
@[simp] theorem clearCnt_busy (s : State) : (clearCnt s).busy = s.busy := rfl
@[simp] theorem clearCnt_trace (s : State) : (clearCnt s).trace = s.trace := rfl
@[simp] theorem clearCnt_rdata (s : State) : (clearCnt s).rdata = s.rdata := rfl
@[simp] theorem clearCnt_inputs (s : State) : (clearCnt s).inputs = s.inputs := rfl
@[simp] theorem clearCnt_draws (s : State) : (clearCnt s).draws = s.draws := rfl

@[simp] theorem goTo_cfg (x : ReceiverState) (s : State) : (goTo x s).cfg = s.cfg := rfl
@[simp] theorem goTo_st (x : ReceiverState) (s : State) : (goTo x s).st = x := rfl
@[simp] theorem goTo_cnt (x : ReceiverState) (s : State) : (goTo x s).cnt = s.cnt := rfl
@[simp] theorem goTo_rawlen (x : ReceiverState) (s : State) : (goTo x s).rawlen = s.rawlen := rfl
@[simp] theorem goTo_buf (x : ReceiverState) (s : State) : (goTo x s).buf = s.buf := rfl
@[simp] theorem goTo_respStatus (x : ReceiverState) (s : State) : (goTo x s).respStatus = s.respStatus := rfl
@[simp] theorem goTo_respValue (x : ReceiverState) (s : State) : (goTo x s).respValue = s.respValue := rfl
@[simp] theorem goTo_respBits (x : ReceiverState) (s : State) : (goTo x s).respBits = s.respBits := rfl
@[simp] theorem goTo_respProto (x : ReceiverState) (s : State) : (goTo x s).respProto = s.respProto := rfl
@[simp] theorem goTo_respHit (x : ReceiverState) (s : State) : (goTo x s).respHit = s.respHit := rfl
@[simp] theorem goTo_outEn (x : ReceiverState) (s : State) : (goTo x s).outEn = s.outEn := rfl
@[simp] theorem goTo_outKhz (x : ReceiverState) (s : State) : (goTo x s).outKhz = s.outKhz := rfl
@[simp] theorem goTo_busy (x : ReceiverState) (s : State) : (goTo x s).busy = s.busy := rfl
@[simp] theorem goTo_trace (x : ReceiverState) (s : State) : (goTo x s).trace = s.trace := rfl
@[simp] theorem goTo_rdata (x : ReceiverState) (s : State) : (goTo x s).rdata = s.rdata := rfl
@[simp] theorem goTo_inputs (x : ReceiverState) (s : State) : (goTo x s).inputs = s.inputs := rfl
@[simp] theorem goTo_draws (x : ReceiverState) (s : State) : (goTo x s).draws = s.draws := rfl

@[simp] theorem appendAndGo_cfg (x : ReceiverState) (s : State) : (appendAndGo x s).cfg = s.cfg := rfl
@[simp] theorem appendAndGo_st (x : ReceiverState) (s : State) : (appendAndGo x s).st = x := rfl
@[simp] theorem appendAndGo_cnt (x : ReceiverState) (s : State) : (appendAndGo x s).cnt = 0 := rfl
@[simp] theorem appendAndGo_rawlen (x : ReceiverState) (s : State) : (appendAndGo x s).rawlen = s.rawlen + 1 := rfl
@[simp] theorem appendAndGo_buf (x : ReceiverState) (s : State) : (appendAndGo x s).buf = s.buf.write s.rawlen.toNat (s.cnt % cntModulus s.cfg) := rfl
@[simp] theorem appendAndGo_respStatus (x : ReceiverState) (s : State) : (appendAndGo x s).respStatus = s.respStatus := rfl
@[simp] theorem appendAndGo_respValue (x : ReceiverState) (s : State) : (appendAndGo x s).respValue = s.respValue := rfl
@[simp] theorem appendAndGo_respBits (x : ReceiverState) (s : State) : (appendAndGo x s).respBits = s.respBits := rfl
@[simp] theorem appendAndGo_respProto (x : ReceiverState) (s : State) : (appendAndGo x s).respProto = s.respProto := rfl
@[simp] theorem appendAndGo_respHit (x : ReceiverState) (s : State) : (appendAndGo x s).respHit = s.respHit := rfl
@[simp] theorem appendAndGo_outEn (x : ReceiverState) (s : State) : (appendAndGo x s).outEn = s.outEn := rfl
@[simp] theorem appendAndGo_outKhz (x : ReceiverState) (s : State) : (appendAndGo x s).outKhz = s.outKhz := rfl
@[simp] theorem appendAndGo_busy (x : ReceiverState) (s : State) : (appendAndGo x s).busy = s.busy := rfl
@[simp] theorem appendAndGo_trace (x : ReceiverState) (s : State) : (appendAndGo x s).trace = s.trace := rfl
@[simp] theorem appendAndGo_rdata (x : ReceiverState) (s : State) : (appendAndGo x s).rdata = s.rdata := rfl
@[simp] theorem appendAndGo_inputs (x : ReceiverState) (s : State) : (appendAndGo x s).inputs = s.inputs := rfl
@[simp] theorem appendAndGo_draws (x : ReceiverState) (s : State) : (appendAndGo x s).draws = s.draws := rfl

@[simp] theorem clearLength_cfg (s : State) : (clearLength s).cfg = s.cfg := rfl
@[simp] theorem clearLength_st (s : State) : (clearLength s).st = s.st := rfl
@[simp] theorem clearLength_cnt (s : State) : (clearLength s).cnt = s.cnt := rfl
@[simp] theorem clearLength_rawlen (s : State) : (clearLength s).rawlen = 0 := rfl
@[simp] theorem clearLength_buf (s : State) : (clearLength s).buf = s.buf := rfl
@[simp] theorem clearLength_respStatus (s : State) : (clearLength s).respStatus = s.respStatus := rfl
@[simp] theorem clearLength_respValue (s : State) : (clearLength s).respValue = s.respValue := rfl
@[simp] theorem clearLength_respBits (s : State) : (clearLength s).respBits = s.respBits := rfl
@[simp] theorem clearLength_respProto (s : State) : (clearLength s).respProto = s.respProto := rfl
@[simp] theorem clearLength_respHit (s : State) : (clearLength s).respHit = s.respHit := rfl
@[simp] theorem clearLength_outEn (s : State) : (clearLength s).outEn = s.outEn := rfl
@[simp] theorem clearLength_outKhz (s : State) : (clearLength s).outKhz = s.outKhz := rfl
@[simp] theorem clearLength_busy (s : State) : (clearLength s).busy = s.busy := rfl
@[simp] theorem clearLength_trace (s : State) : (clearLength s).trace = s.trace := rfl
@[simp] theorem clearLength_rdata (s : State) : (clearLength s).rdata = s.rdata := rfl
@[simp] theorem clearLength_inputs (s : State) : (clearLength s).inputs = s.inputs := rfl
@[simp] theorem clearLength_draws (s : State) : (clearLength s).draws = s.draws := rfl

@[simp] theorem countTick_cfg (s : State) : (countTick s).cfg = s.cfg := rfl
@[simp] theorem countTick_st (s : State) : (countTick s).st = s.st := rfl
@[simp] theorem countTick_cnt (s : State) : (countTick s).cnt = (s.cnt + 1) % cntModulus s.cfg := rfl
@[simp] theorem countTick_rawlen (s : State) : (countTick s).rawlen = s.rawlen := rfl
@[simp] theorem countTick_buf (s : State) : (countTick s).buf = s.buf := rfl
@[simp] theorem countTick_respStatus (s : State) : (countTick s).respStatus = s.respStatus := rfl
@[simp] theorem countTick_respValue (s : State) : (countTick s).respValue = s.respValue := rfl
@[simp] theorem countTick_respBits (s : State) : (countTick s).respBits = s.respBits := rfl
@[simp] theorem countTick_respProto (s : State) : (countTick s).respProto = s.respProto := rfl
@[simp] theorem countTick_respHit (s : State) : (countTick s).respHit = s.respHit := rfl
@[simp] theorem countTick_outEn (s : State) : (countTick s).outEn = s.outEn := rfl
@[simp] theorem countTick_outKhz (s : State) : (countTick s).outKhz = s.outKhz := rfl
@[simp] theorem countTick_busy (s : State) : (countTick s).busy = s.busy := rfl
@[simp] theorem countTick_trace (s : State) : (countTick s).trace = s.trace := rfl
@[simp] theorem countTick_rdata (s : State) : (countTick s).rdata = s.rdata := rfl
@[simp] theorem countTick_inputs (s : State) : (countTick s).inputs = s.inputs := rfl
@[simp] theorem countTick_draws (s : State) : (countTick s).draws = s.draws := rfl

@[simp] theorem respond_cfg (e : Status) (v : BitVec 32) (b : BitVec 6) (p : BitVec 4) (h : Bool) (s : State) : (respond e v b p h s).cfg = s.cfg := rfl
@[simp] theorem respond_st (e : Status) (v : BitVec 32) (b : BitVec 6) (p : BitVec 4) (h : Bool) (s : State) : (respond e v b p h s).st = s.st := rfl
@[simp] theorem respond_cnt (e : Status) (v : BitVec 32) (b : BitVec 6) (p : BitVec 4) (h : Bool) (s : State) : (respond e v b p h s).cnt = s.cnt := rfl
@[simp] theorem respond_rawlen (e : Status) (v : BitVec 32) (b : BitVec 6) (p : BitVec 4) (h : Bool) (s : State) : (respond e v b p h s).rawlen = s.rawlen := rfl
@[simp] theorem respond_buf (e : Status) (v : BitVec 32) (b : BitVec 6) (p : BitVec 4) (h : Bool) (s : State) : (respond e v b p h s).buf = s.buf := rfl
@[simp] theorem respond_respStatus (e : Status) (v : BitVec 32) (b : BitVec 6) (p : BitVec 4) (h : Bool) (s : State) : (respond e v b p h s).respStatus = e := rfl
@[simp] theorem respond_respValue (e : Status) (v : BitVec 32) (b : BitVec 6) (p : BitVec 4) (h : Bool) (s : State) : (respond e v b p h s).respValue = v := rfl
@[simp] theorem respond_respBits (e : Status) (v : BitVec 32) (b : BitVec 6) (p : BitVec 4) (h : Bool) (s : State) : (respond e v b p h s).respBits = b := rfl
@[simp] theorem respond_respProto (e : Status) (v : BitVec 32) (b : BitVec 6) (p : BitVec 4) (h : Bool) (s : State) : (respond e v b p h s).respProto = p := rfl
@[simp] theorem respond_respHit (e : Status) (v : BitVec 32) (b : BitVec 6) (p : BitVec 4) (h : Bool) (s : State) : (respond e v b p h s).respHit = h := rfl
@[simp] theorem respond_outEn (e : Status) (v : BitVec 32) (b : BitVec 6) (p : BitVec 4) (h : Bool) (s : State) : (respond e v b p h s).outEn = s.outEn := rfl
@[simp] theorem respond_outKhz (e : Status) (v : BitVec 32) (b : BitVec 6) (p : BitVec 4) (h : Bool) (s : State) : (respond e v b p h s).outKhz = s.outKhz := rfl
@[simp] theorem respond_busy (e : Status) (v : BitVec 32) (b : BitVec 6) (p : BitVec 4) (h : Bool) (s : State) : (respond e v b p h s).busy = s.busy := rfl
@[simp] theorem respond_trace (e : Status) (v : BitVec 32) (b : BitVec 6) (p : BitVec 4) (h : Bool) (s : State) : (respond e v b p h s).trace = s.trace := rfl
@[simp] theorem respond_rdata (e : Status) (v : BitVec 32) (b : BitVec 6) (p : BitVec 4) (h : Bool) (s : State) : (respond e v b p h s).rdata = s.rdata := rfl
@[simp] theorem respond_inputs (e : Status) (v : BitVec 32) (b : BitVec 6) (p : BitVec 4) (h : Bool) (s : State) : (respond e v b p h s).inputs = s.inputs := rfl
@[simp] theorem respond_draws (e : Status) (v : BitVec 32) (b : BitVec 6) (p : BitVec 4) (h : Bool) (s : State) : (respond e v b p h s).draws = s.draws := rfl

@[simp] theorem raise_cfg (e : Status) (s : State) : (raise e s).cfg = s.cfg := rfl
@[simp] theorem raise_st (e : Status) (s : State) : (raise e s).st = s.st := rfl
@[simp] theorem raise_cnt (e : Status) (s : State) : (raise e s).cnt = s.cnt := rfl
@[simp] theorem raise_rawlen (e : Status) (s : State) : (raise e s).rawlen = s.rawlen := rfl
@[simp] theorem raise_buf (e : Status) (s : State) : (raise e s).buf = s.buf := rfl
@[simp] theorem raise_respStatus (e : Status) (s : State) : (raise e s).respStatus = e := rfl
@[simp] theorem raise_respValue (e : Status) (s : State) : (raise e s).respValue = 0 := rfl
@[simp] theorem raise_respBits (e : Status) (s : State) : (raise e s).respBits = 0 := rfl
@[simp] theorem raise_respProto (e : Status) (s : State) : (raise e s).respProto = 0 := rfl
@[simp] theorem raise_respHit (e : Status) (s : State) : (raise e s).respHit = false := rfl
@[simp] theorem raise_outEn (e : Status) (s : State) : (raise e s).outEn = s.outEn := rfl
@[simp] theorem raise_outKhz (e : Status) (s : State) : (raise e s).outKhz = s.outKhz := rfl
@[simp] theorem raise_busy (e : Status) (s : State) : (raise e s).busy = s.busy := rfl
@[simp] theorem raise_trace (e : Status) (s : State) : (raise e s).trace = s.trace := rfl
@[simp] theorem raise_rdata (e : Status) (s : State) : (raise e s).rdata = s.rdata := rfl
@[simp] theorem raise_inputs (e : Status) (s : State) : (raise e s).inputs = s.inputs := rfl
@[simp] theorem raise_draws (e : Status) (s : State) : (raise e s).draws = s.draws := rfl

@[simp] theorem rearm_cfg (s : State) : (rearm s).cfg = s.cfg := rfl
@[simp] theorem rearm_st (s : State) : (rearm s).st = .idle := rfl
@[simp] theorem rearm_cnt (s : State) : (rearm s).cnt = s.cnt := rfl
@[simp] theorem rearm_rawlen (s : State) : (rearm s).rawlen = 0 := rfl
@[simp] theorem rearm_buf (s : State) : (rearm s).buf = s.buf := rfl
@[simp] theorem rearm_respStatus (s : State) : (rearm s).respStatus = .ok := rfl
@[simp] theorem rearm_respValue (s : State) : (rearm s).respValue = 0 := rfl
@[simp] theorem rearm_respBits (s : State) : (rearm s).respBits = 0 := rfl
@[simp] theorem rearm_respProto (s : State) : (rearm s).respProto = 0 := rfl
@[simp] theorem rearm_respHit (s : State) : (rearm s).respHit = false := rfl
@[simp] theorem rearm_outEn (s : State) : (rearm s).outEn = s.outEn := rfl
@[simp] theorem rearm_outKhz (s : State) : (rearm s).outKhz = s.outKhz := rfl
@[simp] theorem rearm_busy (s : State) : (rearm s).busy = s.busy := rfl
@[simp] theorem rearm_trace (s : State) : (rearm s).trace = s.trace := rfl
@[simp] theorem rearm_rdata (s : State) : (rearm s).rdata = s.rdata := rfl
@[simp] theorem rearm_inputs (s : State) : (rearm s).inputs = s.inputs := rfl
@[simp] theorem rearm_draws (s : State) : (rearm s).draws = s.draws := rfl

@[simp] theorem transmitEnd_cfg (s : State) : (transmitEnd s).cfg = s.cfg := rfl
@[simp] theorem transmitEnd_st (s : State) : (transmitEnd s).st = s.st := rfl
@[simp] theorem transmitEnd_cnt (s : State) : (transmitEnd s).cnt = s.cnt := rfl
@[simp] theorem transmitEnd_rawlen (s : State) : (transmitEnd s).rawlen = s.rawlen := rfl
@[simp] theorem transmitEnd_buf (s : State) : (transmitEnd s).buf = s.buf := rfl
@[simp] theorem transmitEnd_respStatus (s : State) : (transmitEnd s).respStatus = .ok := rfl
@[simp] theorem transmitEnd_respValue (s : State) : (transmitEnd s).respValue = 0 := rfl
@[simp] theorem transmitEnd_respBits (s : State) : (transmitEnd s).respBits = 0 := rfl
@[simp] theorem transmitEnd_respProto (s : State) : (transmitEnd s).respProto = 0 := rfl
@[simp] theorem transmitEnd_respHit (s : State) : (transmitEnd s).respHit = false := rfl
@[simp] theorem transmitEnd_outEn (s : State) : (transmitEnd s).outEn = s.outEn := rfl
@[simp] theorem transmitEnd_outKhz (s : State) : (transmitEnd s).outKhz = s.outKhz := rfl
@[simp] theorem transmitEnd_busy (s : State) : (transmitEnd s).busy = false := rfl
@[simp] theorem transmitEnd_trace (s : State) : (transmitEnd s).trace = s.trace := rfl
@[simp] theorem transmitEnd_rdata (s : State) : (transmitEnd s).rdata = s.rdata := rfl
@[simp] theorem transmitEnd_inputs (s : State) : (transmitEnd s).inputs = s.inputs := rfl
@[simp] theorem transmitEnd_draws (s : State) : (transmitEnd s).draws = s.draws := rfl

@[simp] theorem resetCycle_cfg (s : State) : (resetCycle s).cfg = s.cfg := rfl
@[simp] theorem resetCycle_st (s : State) : (resetCycle s).st = .idle := rfl
@[simp] theorem resetCycle_cnt (s : State) : (resetCycle s).cnt = 0 := rfl
@[simp] theorem resetCycle_rawlen (s : State) : (resetCycle s).rawlen = 0 := rfl
@[simp] theorem resetCycle_buf (s : State) : (resetCycle s).buf = [] := rfl
@[simp] theorem resetCycle_respStatus (s : State) : (resetCycle s).respStatus = .none := rfl
@[simp] theorem resetCycle_respValue (s : State) : (resetCycle s).respValue = 0 := rfl
@[simp] theorem resetCycle_respBits (s : State) : (resetCycle s).respBits = 0 := rfl
@[simp] theorem resetCycle_respProto (s : State) : (resetCycle s).respProto = 0 := rfl
@[simp] theorem resetCycle_respHit (s : State) : (resetCycle s).respHit = false := rfl
@[simp] theorem resetCycle_outEn (s : State) : (resetCycle s).outEn = false := rfl
@[simp] theorem resetCycle_outKhz (s : State) : (resetCycle s).outKhz = 0 := rfl
@[simp] theorem resetCycle_busy (s : State) : (resetCycle s).busy = false := rfl
@[simp] theorem resetCycle_trace (s : State) : (resetCycle s).trace = [] := rfl
@[simp] theorem resetCycle_rdata (s : State) : (resetCycle s).rdata = 0 := rfl
@[simp] theorem resetCycle_inputs (s : State) : (resetCycle s).inputs = s.inputs := rfl
@[simp] theorem resetCycle_draws (s : State) : (resetCycle s).draws = s.draws := rfl

@[simp] theorem emit_cfg (s : State) (item : TraceItem) : (emit s item).cfg = s.cfg := by cases item <;> rfl
@[simp] theorem emit_st (s : State) (item : TraceItem) : (emit s item).st = s.st := by cases item <;> rfl
@[simp] theorem emit_cnt (s : State) (item : TraceItem) : (emit s item).cnt = s.cnt := by cases item <;> rfl
@[simp] theorem emit_rawlen (s : State) (item : TraceItem) : (emit s item).rawlen = s.rawlen := by cases item <;> rfl
@[simp] theorem emit_buf (s : State) (item : TraceItem) : (emit s item).buf = s.buf := by cases item <;> rfl
@[simp] theorem emit_respStatus (s : State) (item : TraceItem) : (emit s item).respStatus = s.respStatus := by cases item <;> rfl
@[simp] theorem emit_respValue (s : State) (item : TraceItem) : (emit s item).respValue = s.respValue := by cases item <;> rfl
@[simp] theorem emit_respBits (s : State) (item : TraceItem) : (emit s item).respBits = s.respBits := by cases item <;> rfl
@[simp] theorem emit_respProto (s : State) (item : TraceItem) : (emit s item).respProto = s.respProto := by cases item <;> rfl
@[simp] theorem emit_respHit (s : State) (item : TraceItem) : (emit s item).respHit = s.respHit := by cases item <;> rfl
@[simp] theorem emit_busy (s : State) (item : TraceItem) : (emit s item).busy = s.busy := by cases item <;> rfl
@[simp] theorem emit_rdata (s : State) (item : TraceItem) : (emit s item).rdata = s.rdata := by cases item <;> rfl
@[simp] theorem emit_inputs (s : State) (item : TraceItem) : (emit s item).inputs = s.inputs := by cases item <;> rfl
@[simp] theorem emit_draws (s : State) (item : TraceItem) : (emit s item).draws = s.draws := by cases item <;> rfl
@[simp] theorem emit_trace (s : State) (item : TraceItem) : (emit s item).trace = s.trace ++ [item] := rfl

end Sys2Proof.Machine
end

