-- ==== Sys2Proof/Laws/Memory.lean ====
section
/-! SUPPORT. The laws of the buffer's memory: read after write, and the canonical form is kept (20_memory.md R62, R64; log 8). -/

namespace Sys2Proof.Machine

@[simp] theorem Memory.read?_write_same (m : Memory) (i v : Nat) : (m.write i v).read? i = some v := by
  induction m with
  | nil => simp [Memory.write, Memory.read?]
  | cons p m ih =>
    obtain ⟨a, x⟩ := p
    by_cases hlt : i < a
    · simp [Memory.write, Memory.read?, hlt]
    · by_cases heq : i = a
      · simp [Memory.write, Memory.read?, heq]
      · simp [Memory.write, Memory.read?, hlt, heq, ih]

theorem Memory.read?_write_other (m : Memory) (i j v : Nat) (h : j ≠ i) : (m.write i v).read? j = m.read? j := by
  induction m with
  | nil => simp [Memory.write, Memory.read?, h]
  | cons p m ih =>
    obtain ⟨a, x⟩ := p
    by_cases hlt : i < a
    · simp [Memory.write, Memory.read?, hlt, h]
    · by_cases heq : i = a
      · subst heq; simp [Memory.write, Memory.read?, h]
      · simp [Memory.write, Memory.read?, hlt, heq, ih]

/-- A cell of a written memory is the written one or an old one. -/
theorem Memory.mem_write {m : Memory} {i v : Nat} {p : Nat × Nat} (h : p ∈ m.write i v) : p = (i, v) ∨ p ∈ m := by
  induction m with
  | nil => simpa [Memory.write] using h
  | cons q m ih =>
    obtain ⟨a, x⟩ := q
    unfold Memory.write at h
    split at h
    · simpa using h
    · split at h
      · rcases List.mem_cons.1 h with h | h
        · exact .inl h
        · exact .inr (List.mem_cons_of_mem _ h)
      · rcases List.mem_cons.1 h with h | h
        · exact .inr (by simp [h])
        · exact (ih h).imp id (List.mem_cons_of_mem _)

/-- A write keeps the canonical form. -/
theorem Memory.write_wf {m : Memory} (i v : Nat) (h : m.wf) : (m.write i v).wf := by
  induction m with
  | nil => simp [Memory.write, Memory.wf]
  | cons q m ih =>
    obtain ⟨a, x⟩ := q
    obtain ⟨ha, hm⟩ := List.pairwise_cons.1 h
    unfold Memory.write
    split
    · rename_i hlt
      refine List.pairwise_cons.2 ⟨fun p hp => ?_, h⟩
      rcases List.mem_cons.1 hp with rfl | hp
      · exact hlt
      · exact hlt.trans (ha p hp)
    · split
      · rename_i heq
        subst heq
        exact List.pairwise_cons.2 ⟨ha, hm⟩
      · refine List.pairwise_cons.2 ⟨fun p hp => ?_, ih hm⟩
        rcases Memory.mem_write hp with rfl | hp
        · simp only; omega
        · exact ha p hp

/-- No cell below the first one is listed. -/
theorem Memory.read?_none_of_lt {m : Memory} {i : Nat} (h : ∀ p ∈ m, i < p.1) : m.read? i = none := by
  induction m with
  | nil => rfl
  | cons q m ih =>
    have hq := h q (by simp)
    simp [Memory.read?, Nat.ne_of_lt hq, ih fun p hp => h p (List.mem_cons_of_mem _ hp)]

/-- The canonical form is canonical: two well-formed memories that read alike are the same list. -/
theorem Memory.ext_of_wf {m m' : Memory} (h : m.wf) (h' : m'.wf) (hr : ∀ i, m.read? i = m'.read? i) : m = m' := by
  induction m generalizing m' with
  | nil =>
    cases m' with
    | nil => rfl
    | cons q m' => simpa [Memory.read?] using hr q.1
  | cons p m ih =>
    obtain ⟨a, x⟩ := p
    obtain ⟨ha, hm⟩ := List.pairwise_cons.1 h
    cases m' with
    | nil => simpa [Memory.read?] using hr a
    | cons q m' =>
      obtain ⟨b, y⟩ := q
      obtain ⟨hb, hm'⟩ := List.pairwise_cons.1 h'
      have hab : a = b := by
        rcases Nat.lt_trichotomy a b with hlt | heq | hgt
        · have := hr a
          simp [Memory.read?, Nat.ne_of_lt hlt, Memory.read?_none_of_lt fun p hp => hlt.trans (hb p hp)] at this
        · exact heq
        · have := hr b
          simp [Memory.read?, Nat.ne_of_lt hgt, Memory.read?_none_of_lt fun p hp => hgt.trans (ha p hp)] at this
      subst hab
      have hxy : x = y := by simpa [Memory.read?] using hr a
      subst hxy
      congr 1
      refine ih hm hm' fun i => ?_
      by_cases hi : i = a
      · subst hi
        rw [Memory.read?_none_of_lt ha, Memory.read?_none_of_lt hb]
      · simpa [Memory.read?, hi] using hr i

/-- Append keeps the canonical form. -/
theorem append_wf {s : State} (v : Nat) (h : s.buf.wf) : (append v s).buf.wf := Memory.write_wf _ _ h

/-- The memory of the machine after reset has the canonical form. -/
theorem resetWith_wf (c : Config) : (State.resetWith c).buf.wf := by simp [State.resetWith, Memory.wf]

/-- MemRead answers CNT_W bits. -/
theorem memRead_lt (s : State) (i : Nat) : memRead s i < cntModulus s.cfg :=
  Nat.mod_lt _ (Nat.two_pow_pos _)

/-- MemRead depends on the parameters and on the cell it reads. -/
theorem memRead_congr {s t : State} {i : Nat} (hc : s.cfg = t.cfg) (hb : s.buf.read? i = t.buf.read? i) :
    memRead s i = memRead t i := by
  simp [memRead, hc, hb]

/-- Any update that keeps the parameters and the buffer keeps every read. -/
theorem memRead_eq_of_buf {s t : State} (hc : s.cfg = t.cfg) (hb : s.buf = t.buf) : memRead s = memRead t := by
  funext i
  exact memRead_congr hc (by rw [hb])

end Sys2Proof.Machine
end

