-- ==== Sys2Proof/Laws/Commands.lean ====
section
/-! SUPPORT. What each host command can do, said once. -/

namespace Sys2Proof.Machine

/-- `t` is `s` but for the response fields. -/
def OnlyResponds (s t : State) : Prop :=
  t = { s with
    respStatus := t.respStatus, respValue := t.respValue, respBits := t.respBits,
    respProto := t.respProto, respHit := t.respHit }

theorem respond_onlyResponds (e : Status) (v : BitVec 32) (b : BitVec 6) (p : BitVec 4) (h : Bool) (s : State) :
    OnlyResponds s (respond e v b p h s) := rfl

theorem raise_onlyResponds (e : Status) (s : State) : OnlyResponds s (raise e s) := rfl

/-- Every outcome of a decode only responds (42_decoder.md R158). -/
theorem respondDecode_onlyResponds (s : State) (r : Except InvalidCause Decoded) : OnlyResponds s (respondDecode s r) := by
  rcases r with _ | _ | _ <;> rfl

/-- The response of a decode depends on the outcome and on the parameters only (42_decoder.md R164). -/
theorem respondDecode_congr {s s' : State} (h : s'.cfg = s.cfg) (r : Except InvalidCause Decoded) :
    (respondDecode s' r).respStatus = (respondDecode s r).respStatus ∧
    (respondDecode s' r).respValue = (respondDecode s r).respValue ∧
    (respondDecode s' r).respBits = (respondDecode s r).respBits ∧
    (respondDecode s' r).respProto = (respondDecode s r).respProto ∧
    (respondDecode s' r).respHit = (respondDecode s r).respHit := by
  rcases r with _ | _ | _ <;> simp [respondDecode, h]

/-- The two ways a TRY_DECODE goes (42_decoder.md R151). -/
theorem execTryDecode_cases (s : State) :
    (s.st ≠ .stopped ∧ execTryDecode s = .next (raise .notReady s)) ∨
    (s.st = .stopped ∧
      execTryDecode s = .next (respondDecode s (decodeCapture s.cfg s.rawlen.toNat (memRead s)))) := by
  by_cases h : s.st = .stopped
  · exact .inr ⟨h, by simp [execTryDecode, h]⟩
  · exact .inl ⟨h, by simp [execTryDecode, h]⟩

/-- The repeat shape (42_decoder.md R153). -/
theorem isRepeatShape_eq_true {c : Config} {rawlen : Nat} {b : Nat → Nat} :
    isRepeatShape c rawlen b = true ↔
      rawlen = 4 ∧ matchSpace c (b 2) c.necRptSpace = true ∧ matchMark c (b 3) c.necBitMark = true := by
  simp [isRepeatShape, and_assoc]

/-- A space is a 1 when it matches the one space, a 0 when it matches only the zero space, and no bit otherwise (42_decoder.md
R156). -/
theorem classifySpace_eq_some {c : Config} {t : Nat} {x : Bool} :
    classifySpace c t = some x ↔
      (x = true ∧ matchSpace c t c.necOneSpace = true) ∨
      (x = false ∧ matchSpace c t c.necOneSpace = false ∧ matchSpace c t c.necZeroSpace = true) := by
  unfold classifySpace
  cases matchSpace c t c.necOneSpace <;> cases matchSpace c t c.necZeroSpace <;> cases x <;> simp

theorem classifySpace_eq_none {c : Config} {t : Nat} :
    classifySpace c t = none ↔ matchSpace c t c.necOneSpace = false ∧ matchSpace c t c.necZeroSpace = false := by
  unfold classifySpace
  cases matchSpace c t c.necOneSpace <;> cases matchSpace c t c.necZeroSpace <;> simp

/-- Step 6 reads only the entries of its own bits (42_decoder.md R150). -/
theorem decodeBits_congr {c : Config} {b b' : Nat → Nat} (todo i : Nat) (data : BitVec 32)
    (h : ∀ k, 2 * i + 3 ≤ k → k < 2 * (i + todo) + 3 → b' k = b k) :
    decodeBits c b' todo i data = decodeBits c b todo i data := by
  induction todo generalizing i data with
  | zero => rfl
  | succ todo ih =>
    simp only [decodeBits]
    rw [h (2 * i + 3) (by omega) (by omega), h (2 * i + 4) (by omega) (by omega)]
    split
    · split
      · exact ih _ _ fun k hk hk' => h k (by omega) (by omega)
      · rfl
    · rfl

theorem transmitLegal_eq_true {nbits : BitVec 6} {khz : BitVec 8} :
    transmitLegal nbits khz = true ↔ nbits.toNat ≤ 32 ∧ khz ≠ 0 := by
  simp only [transmitLegal, Bool.and_eq_true, decide_eq_true_eq]
  exact and_congr_right fun _ => not_congr ⟨fun h => BitVec.eq_of_toNat_eq h, fun h => by simp [h]⟩

/-- The two ways a TRANSMIT goes (30_encoding.md R88, 43_encoder.md R170). -/
theorem execTransmit_cases (value : BitVec 32) (nbits : BitVec 6) (khz : BitVec 8) (s : State) :
    ((nbits.toNat ≤ 32 ∧ khz ≠ 0) ∧ execTransmit value nbits khz s = .next (transmitEnd
      (transmitPhase value nbits.toNat khz (transmitItems s.cfg value nbits.toNat khz).length s))) ∨
    (¬(nbits.toNat ≤ 32 ∧ khz ≠ 0) ∧ execTransmit value nbits khz s = .next (raise .illegal s)) := by
  by_cases h : transmitLegal nbits khz = true
  · exact .inl ⟨transmitLegal_eq_true.1 h, by simp [execTransmit, h]⟩
  · exact .inr ⟨mt transmitLegal_eq_true.2 h, by simp [execTransmit, h]⟩

/-- Emitting items writes the trace and the outputs only. -/
theorem foldl_emit_keeps (items : List TraceItem) (s : State) :
    items.foldl emit s =
      { s with
        outEn := (items.foldl emit s).outEn, outKhz := (items.foldl emit s).outKhz, trace := s.trace ++ items } := by
  induction items generalizing s with
  | nil => simp
  | cons item items ih =>
    rw [List.foldl_cons, ih (emit s item)]
    cases item <;> simp [emit, drive]

/-- After its last item the outputs are those of that item. -/
theorem foldl_emit_concat (items : List TraceItem) (item : TraceItem) (s : State) :
    (items ++ [item]).foldl emit s = emit (items.foldl emit s) item := by simp

/-- A transmission writes only busy, the outputs and the trace. -/
theorem transmitPhase_keeps (value : BitVec 32) (nbits : Nat) (khz : BitVec 8) (k : Nat) (s : State) :
    transmitPhase value nbits khz k s =
      { s with
        busy := true, outEn := (transmitPhase value nbits khz k s).outEn,
        outKhz := (transmitPhase value nbits khz k s).outKhz,
        trace := s.trace ++ (transmitItems s.cfg value nbits khz).take k } := by
  unfold transmitPhase
  rw [foldl_emit_keeps]

end Sys2Proof.Machine
end

