-- ==== Sys2Proof/Laws/Encoding.lean ====
section
/-! SUPPORT. The fields of the encoded words (30_encoding.md R83 to R85): each field of a word put together by `++` reads back. -/

namespace Sys2Proof

theorem transmitWord_op (value : BitVec 32) (nbits : BitVec 6) (khz : BitVec 8) :
    (value ++ 0#15 ++ khz ++ nbits ++ 0b100#3 : CommandWord).extractLsb' 0 3 = 0b100#3 := by
  rw [BitVec.extractLsb'_append_eq_right]

theorem transmitWord_nbits (value : BitVec 32) (nbits : BitVec 6) (khz : BitVec 8) :
    (value ++ 0#15 ++ khz ++ nbits ++ 0b100#3 : CommandWord).extractLsb' 3 6 = nbits := by
  rw [BitVec.extractLsb'_append_eq_of_le (by decide), BitVec.extractLsb'_append_eq_right]

theorem transmitWord_khz (value : BitVec 32) (nbits : BitVec 6) (khz : BitVec 8) :
    (value ++ 0#15 ++ khz ++ nbits ++ 0b100#3 : CommandWord).extractLsb' 9 8 = khz := by
  rw [BitVec.extractLsb'_append_eq_of_le (by decide), BitVec.extractLsb'_append_eq_of_le (by decide), BitVec.extractLsb'_append_eq_right]

theorem transmitWord_reserved (value : BitVec 32) (nbits : BitVec 6) (khz : BitVec 8) :
    (value ++ 0#15 ++ khz ++ nbits ++ 0b100#3 : CommandWord).extractLsb' 17 15 = 0#15 := by
  rw [BitVec.extractLsb'_append_eq_of_le (by decide), BitVec.extractLsb'_append_eq_of_le (by decide), BitVec.extractLsb'_append_eq_of_le (by decide), BitVec.extractLsb'_append_eq_right]

theorem transmitWord_value (value : BitVec 32) (nbits : BitVec 6) (khz : BitVec 8) :
    (value ++ 0#15 ++ khz ++ nbits ++ 0b100#3 : CommandWord).extractLsb' 32 32 = value := by
  rw [BitVec.extractLsb'_append_eq_of_le (by decide), BitVec.extractLsb'_append_eq_of_le (by decide), BitVec.extractLsb'_append_eq_of_le (by decide), BitVec.extractLsb'_append_eq_left]

theorem matchWord_op (kind : Bool) (ticks us : BitVec 16) :
    (0#16 ++ us ++ ticks ++ 0#12 ++ BitVec.ofBool kind ++ 0b101#3 : CommandWord).extractLsb' 0 3 = 0b101#3 := by
  rw [BitVec.extractLsb'_append_eq_right]

theorem matchWord_kindField (kind : Bool) (ticks us : BitVec 16) :
    (0#16 ++ us ++ ticks ++ 0#12 ++ BitVec.ofBool kind ++ 0b101#3 : CommandWord).extractLsb' 3 1 = BitVec.ofBool kind := by
  rw [BitVec.extractLsb'_append_eq_of_le (by decide), BitVec.extractLsb'_append_eq_right]

theorem matchWord_reservedLow (kind : Bool) (ticks us : BitVec 16) :
    (0#16 ++ us ++ ticks ++ 0#12 ++ BitVec.ofBool kind ++ 0b101#3 : CommandWord).extractLsb' 4 12 = 0#12 := by
  rw [BitVec.extractLsb'_append_eq_of_le (by decide), BitVec.extractLsb'_append_eq_of_le (by decide), BitVec.extractLsb'_append_eq_right]

theorem matchWord_ticks (kind : Bool) (ticks us : BitVec 16) :
    (0#16 ++ us ++ ticks ++ 0#12 ++ BitVec.ofBool kind ++ 0b101#3 : CommandWord).extractLsb' 16 16 = ticks := by
  rw [BitVec.extractLsb'_append_eq_of_le (by decide), BitVec.extractLsb'_append_eq_of_le (by decide), BitVec.extractLsb'_append_eq_of_le (by decide), BitVec.extractLsb'_append_eq_right]

theorem matchWord_us (kind : Bool) (ticks us : BitVec 16) :
    (0#16 ++ us ++ ticks ++ 0#12 ++ BitVec.ofBool kind ++ 0b101#3 : CommandWord).extractLsb' 32 16 = us := by
  rw [BitVec.extractLsb'_append_eq_of_le (by decide), BitVec.extractLsb'_append_eq_of_le (by decide), BitVec.extractLsb'_append_eq_of_le (by decide), BitVec.extractLsb'_append_eq_of_le (by decide), BitVec.extractLsb'_append_eq_right]

theorem matchWord_reservedHigh (kind : Bool) (ticks us : BitVec 16) :
    (0#16 ++ us ++ ticks ++ 0#12 ++ BitVec.ofBool kind ++ 0b101#3 : CommandWord).extractLsb' 48 16 = 0#16 := by
  rw [BitVec.extractLsb'_append_eq_of_le (by decide), BitVec.extractLsb'_append_eq_of_le (by decide), BitVec.extractLsb'_append_eq_of_le (by decide), BitVec.extractLsb'_append_eq_of_le (by decide), BitVec.extractLsb'_append_eq_left]

theorem matchWord_kind (kind : Bool) (ticks us : BitVec 16) :
    (0#16 ++ us ++ ticks ++ 0#12 ++ BitVec.ofBool kind ++ 0b101#3 : CommandWord).getLsbD 3 = kind := by
  have h := congrArg (fun x => x.getLsbD 0) (matchWord_kindField kind ticks us)
  simp only [BitVec.getLsbD_extractLsb'] at h
  simpa using h

theorem opWord_op (rest : BitVec 61) (op : BitVec 3) : (rest ++ op : CommandWord).extractLsb' 0 3 = op :=
  BitVec.extractLsb'_append_eq_right

theorem opWord_rest (rest : BitVec 61) (op : BitVec 3) : (rest ++ op : CommandWord).extractLsb' 3 61 = rest :=
  BitVec.extractLsb'_append_eq_left

/-- The opcode map, one lemma for each op (30_encoding.md R82). -/
theorem decodeCommand_op0 {w : CommandWord} (h : w.extractLsb' 0 3 = 0) :
    decodeCommand w = .reservedOp0 (w.extractLsb' 3 61) := by simp [decodeCommand, h]

theorem decodeCommand_op1 {w : CommandWord} (h : w.extractLsb' 0 3 = 1) :
    decodeCommand w = decodePlain .startReceiving w := by simp [decodeCommand, h]

theorem decodeCommand_op2 {w : CommandWord} (h : w.extractLsb' 0 3 = 2) :
    decodeCommand w = decodePlain .resetCapture w := by simp [decodeCommand, h]

theorem decodeCommand_op3 {w : CommandWord} (h : w.extractLsb' 0 3 = 3) :
    decodeCommand w = decodePlain .tryDecode w := by simp [decodeCommand, h]

theorem decodeCommand_op4 {w : CommandWord} (h : w.extractLsb' 0 3 = 4) : decodeCommand w = decodeTransmit w := by
  simp [decodeCommand, h]

theorem decodeCommand_op5 {w : CommandWord} (h : w.extractLsb' 0 3 = 5) : decodeCommand w = decodeMatch w := by
  simp [decodeCommand, h]

theorem decodeCommand_op6 {w : CommandWord} (h : w.extractLsb' 0 3 = 6) :
    decodeCommand w = .reservedOp6 (w.extractLsb' 3 61) := by simp [decodeCommand, h]

theorem decodeCommand_op7 {w : CommandWord} (h : w.extractLsb' 0 3 = 7) :
    decodeCommand w = .reservedOp7 (w.extractLsb' 3 61) := by simp [decodeCommand, h]

/-- Every op is one of the eight (30_encoding.md R82). -/
theorem op_cases (o : BitVec 3) : o = 0 ∨ o = 1 ∨ o = 2 ∨ o = 3 ∨ o = 4 ∨ o = 5 ∨ o = 6 ∨ o = 7 := by
  revert o; decide

/-- A word is its op and the rest. -/
theorem rest_append_op (w : CommandWord) : w.extractLsb' 3 61 ++ w.extractLsb' 0 3 = w := by
  apply BitVec.eq_of_getLsbD_eq
  intro k hk
  simp only [BitVec.getLsbD_append, BitVec.getLsbD_extractLsb']
  split
  · simp [*]
  · rw [show 3 + (k - 3) = k by omega, decide_eq_true (by omega : k - 3 < 61)]
    simp

end Sys2Proof
end

