-- ==== Sys2Proof/Laws/PerInstr.lean ====
section
/-! SUPPORT. One lemma for each operation: its encoding carries the fixed bits of its row of spec/opcode_table.json. -/

namespace Sys2Proof.Laws.RowPattern

/-- `len` bits of a word from bit `lo` up are those of `v`. -/
abbrev Fixed (w : CommandWord) (lo len : Nat) (v : BitVec len) : Prop := w.extractLsb' lo len = v

/-- The encoding carries the fixed bits of the operation's row: the `match` bits under the `mask` of spec/opcode_table.json,
field by field. A `reservedBits` word, which has no pattern, encodes as itself. -/
def Statement : Instr → Prop
  | .tick level => ∃ e : EventWord, encode (.tick level) = .event e ∧ e.getLsbD 1 = true
  | .startReceiving => encode .startReceiving = .command 0x0000000000000001
  | .resetCapture => encode .resetCapture = .command 0x0000000000000002
  | .tryDecode => encode .tryDecode = .command 0x0000000000000003
  | .transmit value nbits khz =>
    ∃ w, encode (.transmit value nbits khz) = .command w ∧ Fixed w 0 3 0b100 ∧ Fixed w 17 15 0
  | .matchWindow kind ticks us =>
    ∃ w, encode (.matchWindow kind ticks us) = .command w ∧ Fixed w 0 3 0b101 ∧ Fixed w 4 12 0 ∧ Fixed w 48 16 0
  | .reservedOp0 rest => ∃ w, encode (.reservedOp0 rest) = .command w ∧ Fixed w 0 3 0b000
  | .reservedOp6 rest => ∃ w, encode (.reservedOp6 rest) = .command w ∧ Fixed w 0 3 0b110
  | .reservedOp7 rest => ∃ w, encode (.reservedOp7 rest) = .command w ∧ Fixed w 0 3 0b111
  | .reservedBits w => encode (.reservedBits w) = .command w

theorem tick (level : Level) : Statement (.tick level) := ⟨_, rfl, by cases level <;> decide⟩

theorem startReceiving : Statement .startReceiving := rfl

theorem resetCapture : Statement .resetCapture := rfl

theorem tryDecode : Statement .tryDecode := rfl

theorem transmit (value : BitVec 32) (nbits : BitVec 6) (khz : BitVec 8) : Statement (.transmit value nbits khz) :=
  ⟨_, rfl, transmitWord_op value nbits khz, transmitWord_reserved value nbits khz⟩

theorem matchWindow (kind : Bool) (ticks us : BitVec 16) : Statement (.matchWindow kind ticks us) :=
  ⟨_, rfl, matchWord_op kind ticks us, matchWord_reservedLow kind ticks us, matchWord_reservedHigh kind ticks us⟩

theorem reservedOp0 (rest : BitVec 61) : Statement (.reservedOp0 rest) := ⟨_, rfl, opWord_op rest _⟩

theorem reservedOp6 (rest : BitVec 61) : Statement (.reservedOp6 rest) := ⟨_, rfl, opWord_op rest _⟩

theorem reservedOp7 (rest : BitVec 61) : Statement (.reservedOp7 rest) := ⟨_, rfl, opWord_op rest _⟩

theorem reservedBits (word : CommandWord) : Statement (.reservedBits word) := rfl

end Sys2Proof.Laws.RowPattern
end

