-- ==== Sys2Proof/Laws/Sampler.lean ====
section
/-! SUPPORT. Everything a TICK can do, said once (40_sampler.md R100 to R107). -/

namespace Sys2Proof.Machine

theorem isMark_eq_true {c : Config} {level : Level} : isMark c level = true ↔ level = c.markLevel := by
  simp [isMark]

theorem overRun_eq_true {s : State} : overRun s = true ↔ s.cfg.rawBuf ≤ s.rawlen.toNat := by
  simp [overRun]

/-- The counter after the increment of R101. -/
def nextCnt (s : State) : Nat := (s.cnt + 1) % cntModulus s.cfg

theorem nextCnt_lt (s : State) : nextCnt s < cntModulus s.cfg := Nat.mod_lt _ (Nat.two_pow_pos _)

@[simp] theorem nextCnt_mod (s : State) : nextCnt s % cntModulus s.cfg = nextCnt s := Nat.mod_eq_of_lt (nextCnt_lt s)

/-- A full buffer stops the sampler (40_sampler.md R102). -/
theorem tickStep_over {s : State} (level : Level) (h : s.cfg.rawBuf ≤ s.rawlen.toNat) :
    tickStep level s =
      { s with cnt := if level = s.cfg.markLevel then 0 else nextCnt s, st := .stopped } := by
  have ho : overflowOverride (countTick s) = goTo .stopped (countTick s) := if_pos (overRun_eq_true.2 h)
  unfold tickStep
  rw [ho]
  by_cases hm : level = s.cfg.markLevel
  · rw [if_pos hm, isMark_eq_true.2 hm]; rfl
  · rw [if_neg hm, Bool.eq_false_iff.2 (mt isMark_eq_true.1 hm)]; rfl

/-- Below capacity the arm of the state runs on the incremented counter (40_sampler.md R100, R101). -/
theorem tickStep_below {s : State} (level : Level) (h : s.rawlen.toNat < s.cfg.rawBuf) :
    tickStep level s = samplerArm (isMark s.cfg level) { s with cnt := nextCnt s } := by
  have ho : overflowOverride (countTick s) = countTick s :=
    if_neg fun hover => Nat.not_le.2 h (overRun_eq_true.1 hover)
  unfold tickStep
  rw [ho]
  rfl

/-- A mark sample below capacity. -/
theorem tickStep_mark {s : State} {level : Level} (h : s.rawlen.toNat < s.cfg.rawBuf) (hl : level = s.cfg.markLevel) :
    tickStep level s = samplerArm true { s with cnt := nextCnt s } := by
  rw [tickStep_below level h, isMark_eq_true.2 hl]

/-- A space sample below capacity. -/
theorem tickStep_space {s : State} {level : Level} (h : s.rawlen.toNat < s.cfg.rawBuf) (hl : level = !s.cfg.markLevel) :
    tickStep level s = samplerArm false { s with cnt := nextCnt s } := by
  rw [tickStep_below level h, show isMark s.cfg level = false by simp [isMark, hl]]

/-- What a TICK can do, guards included (40_sampler.md R103): count, reset the counter, stop, or append and move on. -/
inductive TickEffect (s : State) : State → Prop where
  /-- The counter counted; in TimingSpace it is not past GAP_TICKS. -/
  | counted (hb : s.rawlen.toNat < s.cfg.rawBuf) (hg : s.st = .timingSpace → nextCnt s ≤ s.cfg.gapTicks) :
      TickEffect s { s with cnt := nextCnt s }
  /-- A noise mark in Idle, or a mark in Stopped, reset the counter. -/
  | cleared (hb : s.rawlen.toNat < s.cfg.rawBuf) (h : s.st = .idle ∨ s.st = .stopped) : TickEffect s { s with cnt := 0 }
  /-- The override stopped a full capture. -/
  | overrun (hb : s.cfg.rawBuf ≤ s.rawlen.toNat) (n : Nat) (hn : n = 0 ∨ n = nextCnt s) :
      TickEffect s { s with cnt := n, st := .stopped }
  /-- The trailing gap ended a capture. -/
  | gapEnded (h : s.st = .timingSpace) (hb : s.rawlen.toNat < s.cfg.rawBuf) (hg : s.cfg.gapTicks < nextCnt s) :
      TickEffect s { s with cnt := nextCnt s, st := .stopped }
  /-- A genuine gap started a capture. -/
  | started (h : s.st = .idle) (hb : s.rawlen.toNat < s.cfg.rawBuf) (hg : s.cfg.gapTicks ≤ nextCnt s) :
      TickEffect s { s with cnt := 0, st := .timingMark, rawlen := 1, buf := s.buf.write 0 (nextCnt s) }
  /-- A mark ended. -/
  | markEnded (h : s.st = .timingMark) (hb : s.rawlen.toNat < s.cfg.rawBuf) :
      TickEffect s
        { s with cnt := 0, st := .timingSpace, rawlen := s.rawlen + 1, buf := s.buf.write s.rawlen.toNat (nextCnt s) }
  /-- A space ended. -/
  | spaceEnded (h : s.st = .timingSpace) (hb : s.rawlen.toNat < s.cfg.rawBuf) :
      TickEffect s
        { s with cnt := 0, st := .timingMark, rawlen := s.rawlen + 1, buf := s.buf.write s.rawlen.toNat (nextCnt s) }

/-- A TICK does one of these. -/
theorem tickStep_effect (level : Level) (s : State) : TickEffect s (tickStep level s) := by
  by_cases hb : s.rawlen.toNat < s.cfg.rawBuf
  · rw [tickStep_below level hb]
    cases hst : s.st with
    | idle =>
      cases hm : isMark s.cfg level with
      | false => simpa [samplerArm, hst, idleArm] using TickEffect.counted hb (by simp [hst])
      | true =>
        by_cases hg : nextCnt s < s.cfg.gapTicks
        · simpa [samplerArm, hst, idleArm, hg, clearCnt] using TickEffect.cleared hb (.inl hst)
        · simpa [samplerArm, hst, idleArm, hg, appendAndGo, append, memWrite, clearLength, goTo, clearCnt] using
            TickEffect.started hst hb (Nat.le_of_not_lt hg)
    | timingMark =>
      cases hm : isMark s.cfg level with
      | true => simpa [samplerArm, hst, timingMarkArm] using TickEffect.counted hb (by simp [hst])
      | false =>
        simpa [samplerArm, hst, timingMarkArm, appendAndGo, append, memWrite, goTo, clearCnt] using
          TickEffect.markEnded hst hb
    | timingSpace =>
      cases hm : isMark s.cfg level with
      | true =>
        simpa [samplerArm, hst, timingSpaceArm, appendAndGo, append, memWrite, goTo, clearCnt] using
          TickEffect.spaceEnded hst hb
      | false =>
        by_cases hg : s.cfg.gapTicks < nextCnt s
        · simpa [samplerArm, hst, timingSpaceArm, hg, goTo] using TickEffect.gapEnded hst hb hg
        · simpa [samplerArm, hst, timingSpaceArm, hg] using TickEffect.counted hb fun _ => Nat.le_of_not_lt hg
    | stopped =>
      cases hm : isMark s.cfg level with
      | true => simpa [samplerArm, hst, stoppedArm, clearCnt] using TickEffect.cleared hb (.inr hst)
      | false => simpa [samplerArm, hst, stoppedArm] using TickEffect.counted hb (by simp [hst])
  · rw [tickStep_over level (Nat.le_of_not_lt hb)]
    refine TickEffect.overrun (Nat.le_of_not_lt hb) _ ?_
    split
    · exact .inl rfl
    · exact .inr rfl

/-- What no TICK changes: everything outside st, cnt, rawlen and buf (60_exceptions.md R199). -/
theorem tickStep_keeps (level : Level) (s : State) :
    tickStep level s =
      { s with
        st := (tickStep level s).st, cnt := (tickStep level s).cnt,
        rawlen := (tickStep level s).rawlen, buf := (tickStep level s).buf } := by
  generalize ht : tickStep level s = t
  have he : TickEffect s t := ht ▸ tickStep_effect level s
  cases he <;> rfl

end Sys2Proof.Machine
end

