-- ==== Sys2Proof/Laws/Replay.lean ====
section
/-! SUPPORT. Sequences of TICKs, taken apart. -/

namespace Sys2Proof.Machine

@[simp] theorem feed_nil (s : State) : feed [] s = s := rfl

@[simp] theorem feed_cons (level : Level) (levels : List Level) (s : State) :
    feed (level :: levels) s = feed levels (tickStep level s) := rfl

theorem feed_append (a b : List Level) (s : State) : feed (a ++ b) s = feed b (feed a s) := by
  simp [feed, List.foldl_append]

@[simp] theorem markTicks_zero (c : Config) : markTicks c 0 = [] := rfl

@[simp] theorem spaceTicks_zero (c : Config) : spaceTicks c 0 = [] := rfl

/-- A run of marks, its last sample taken off. -/
theorem feed_markTicks_succ (c : Config) (n : Nat) (s : State) :
    feed (markTicks c (n + 1)) s = tickStep c.markLevel (feed (markTicks c n) s) := by
  rw [markTicks, List.replicate_succ', feed_append]
  rfl

/-- A run of spaces, its last sample taken off. -/
theorem feed_spaceTicks_succ (c : Config) (n : Nat) (s : State) :
    feed (spaceTicks c (n + 1)) s = tickStep (!c.markLevel) (feed (spaceTicks c n) s) := by
  rw [spaceTicks, List.replicate_succ', feed_append]
  rfl

/-- A run of marks, its first sample taken off. -/
theorem markTicks_succ (c : Config) (n : Nat) : markTicks c (n + 1) = c.markLevel :: markTicks c n := rfl

/-- A run of spaces, its first sample taken off. -/
theorem spaceTicks_succ (c : Config) (n : Nat) : spaceTicks c (n + 1) = (!c.markLevel) :: spaceTicks c n := rfl

end Sys2Proof.Machine
end

