-- ==== Sys2Proof/Laws/Step.lean ====
section
/-! SUPPORT. What a step and its parts can do, said once (20_memory.md R72, 30_encoding.md R90). -/

namespace Sys2Proof.Machine

@[simp] theorem cmdReady_eq (s : State) : cmdReady false s = !s.busy := rfl

/-- Port activity that is no command is always taken. -/
theorem nextInput_of_not_command {ready : Bool} {i : Input} {rest : List Input} (h : i.isCommand = false) :
    nextInput ready (i :: rest) = some (i, rest) := by simp [nextInput, h]

/-- A ready port takes whatever comes first. -/
theorem nextInput_of_ready {i : Input} {rest : List Input} : nextInput true (i :: rest) = some (i, rest) := by
  simp [nextInput]

/-- What is taken was pending. -/
theorem nextInput_mem {ready : Bool} {l rest : List Input} {i : Input} (h : nextInput ready l = some (i, rest)) :
    i ∈ l := by
  induction l generalizing i rest with
  | nil => simp [nextInput] at h
  | cons j l ih =>
    unfold nextInput at h
    split at h
    · split at h
      · rename_i k r hk
        obtain ⟨rfl, rfl⟩ := Prod.mk.inj (Option.some.inj h)
        exact List.mem_cons_of_mem _ (ih hk)
      · cases h
    · obtain ⟨rfl, rfl⟩ := Prod.mk.inj (Option.some.inj h)
      exact List.mem_cons_self

/-- A read changes rdata and the count of draws, nothing else (20_memory.md R71). -/
theorem readRegister_keeps (a : RegAddr) (s : State) :
    (readRegister a s).2 = { s with draws := (readRegister a s).2.draws } := by
  unfold readRegister bufWord
  repeat' first | rfl | split

theorem hostRead_keeps (a : RegAddr) (s : State) :
    hostRead a s = { s with rdata := (hostRead a s).rdata, draws := (hostRead a s).draws } := by
  unfold hostRead
  rw [readRegister_keeps]

/-- A read at the front is taken, busy or not. -/
theorem step_read {s : State} {a : RegAddr} {rest : List Input} (h : s.inputs = .read a :: rest) :
    step s = .next (hostRead a { s with inputs := rest }) := by
  unfold step
  rw [h, nextInput_of_not_command rfl]

/-- A command at the front of a port that is ready is taken (30_encoding.md R90). -/
theorem step_command {s : State} {w : CommandWord} {rest : List Input} (h : s.inputs = .word (.command w) :: rest)
    (hb : s.busy = false) : step s = exec (decodeCommand w) { s with inputs := rest } := by
  unfold step
  rw [h, cmdReady_eq, hb]
  simp [nextInput_of_ready, decode]

/-- No operation stops: exec always answers a next state. -/
theorem exec_next (i : Instr) (s : State) : ∃ t, exec i s = .next t := by
  cases i with
  | transmit value nbits khz => rcases execTransmit_cases value nbits khz s with ⟨-, h⟩ | ⟨-, h⟩ <;> exact ⟨_, h⟩
  | _ => exact ⟨_, rfl⟩

/-- What a step can do. -/
theorem step_cases (s : State) :
    (nextInput (!s.busy) s.inputs = none ∧ step s = .next s) ∨
    (∃ rest, nextInput (!s.busy) s.inputs = some (.reset, rest) ∧ step s = .next (resetCycle { s with inputs := rest })) ∨
    (∃ a rest, nextInput (!s.busy) s.inputs = some (.read a, rest) ∧ step s = .next (hostRead a { s with inputs := rest })) ∨
    (∃ p rest i, nextInput (!s.busy) s.inputs = some (.word p, rest) ∧ decode p = .ok i ∧
      step s = exec i { s with inputs := rest }) ∨
    (∃ p rest, nextInput (!s.busy) s.inputs = some (.word p, rest) ∧ decode p = .error .noStrobe ∧
      step s = .next { s with inputs := rest }) := by
  unfold step
  rw [cmdReady_eq]
  rcases h : nextInput (!s.busy) s.inputs with _ | ⟨_ | p | a, rest⟩
  · exact .inl ⟨rfl, rfl⟩
  · exact .inr (.inl ⟨rest, rfl, rfl⟩)
  · rcases hd : decode p with e | i
    · cases e
      exact .inr (.inr (.inr (.inr ⟨p, rest, rfl, hd, by simp [hd]⟩)))
    · exact .inr (.inr (.inr (.inl ⟨p, rest, i, rfl, hd, by simp [hd]⟩)))
  · exact .inr (.inr (.inl ⟨a, rest, rfl, rfl⟩))

end Sys2Proof.Machine
end

