-- ==== Sys2Proof/Tests/Slice0.lean ====
section
/-! SUPPORT. The model's own tests. Expected results come from spec/95_test_vectors.md (the vector's name stands in the comment) or
are worked out from the encoding columns of 30_encoding.md; and for every statement with hypotheses a witness that meets them. -/

namespace Sys2Proof.Tests

open Sys2Proof.Machine

/-! ### Small states -/

/-- The reference configuration with a named anchor. -/
abbrev refConfig : Config := Config.reference .lowField 0

/-- The reset state of the reference configuration. -/
abbrev base : State := State.resetWith refConfig

/-- A buffer that holds the listed entries from index `i` up. -/
def entriesFrom : Nat → List Nat → Memory
  | _, [] => []
  | i, v :: vs => (i, v) :: entriesFrom (i + 1) vs

/-- A capture of the listed entries. -/
def capture (st : ReceiverState) (entries : List Nat) : State :=
  { base with st := st, rawlen := BitVec.ofNat 8 entries.length, buf := entriesFrom 0 entries }

/-- A sampler state as the TICK vectors give it. -/
def sampler (st : ReceiverState) (cnt : Nat) (rawlen : BitVec 8) : State :=
  { base with st := st, cnt := cnt, rawlen := rawlen }

/-- The entries of the bits of a frame (95_test_vectors.md section 4), `n` of them, the first most significant. -/
def bitEntries (v : BitVec 32) : Nat → List Nat
  | 0 => []
  | n + 1 => 11 :: (if v.getLsbD n then 34 else 11) :: bitEntries v n

/-- "frame(v)" of 95_test_vectors.md section 4, with n bits. -/
def frame (n : Nat) (v : BitVec 32) : List Nat := [121, 180, 90] ++ bitEntries v n ++ [11]

/-- A configuration whose full frame is short: two bits, a buffer of 8 entries, a minimum gap of 3 ticks. -/
abbrev tinyConfig : Config := { refConfig with necBits := 2, rawBuf := 8, gapTicks := 3, cntW := 8 }

/-- The outcome is a next state, and the test holds of it. -/
def answers (o : Host.Outcome State Fault Refusal) (test : State → Bool) : Bool :=
  match o with
  | .next t => test t
  | .fault _ => false
  | .refused _ => false

/-! ### Well-formedness: the one check there is -/

theorem test_wellFormed_refuses_a_word_without_reserved_bits :
    (Instr.reservedBits 0x0000000000000001#64).wellFormed = false ∧
    (Instr.reservedBits 0x20DF10EF00004D04#64).wellFormed = false ∧
    (Instr.reservedBits 0x000023280088000D#64).wellFormed = false ∧
    (Instr.reservedBits 0xFFFFFFFFFFFFFFFE#64).wellFormed = false := by decide

theorem test_wellFormed_accepts_each_reserved_field :
    (Instr.reservedBits 0x0000000000000009#64).wellFormed = true ∧
    (Instr.reservedBits 0xFFFFFFFFFFFFFFFA#64).wellFormed = true ∧
    (Instr.reservedBits 0x8000000000000003#64).wellFormed = true ∧
    (Instr.reservedBits 0x0000000080004D04#64).wellFormed = true ∧
    (Instr.reservedBits 0x000023280088001D#64).wellFormed = true ∧
    (Instr.reservedBits 0x000123280088000D#64).wellFormed = true := by decide

/-! ### Decoding: one word for every constructor, written out from the encoding column of 30_encoding.md R92 -/

theorem test_decode_tick : decodeTableWord 8 0b10 = some (.tick false) ∧ decodeTableWord 8 0b11 = some (.tick true) ∧
    decodeTableWord 2 0b01 = none ∧ decodeTableWord 8 0b110 = none := by decide

theorem test_decode_startReceiving : decodeTableWord 64 0b001 = some .startReceiving := by decide

theorem test_decode_resetCapture : decodeTableWord 64 0b010 = some .resetCapture := by decide

theorem test_decode_tryDecode : decodeTableWord 64 0b011 = some .tryDecode := by decide

-- {value, 15'b0, khz, nbits, 3'b100} with value 0x12345678, khz 36 = 0b00100100 and nbits 16 = 0b010000: vector X-4
theorem test_decode_transmit :
    decodeTableWord 64 0b0001001000110100010101100111100000000000000000000100100010000100
      = some (.transmit 0x12345678#32 16#6 36#8) := by decide

-- {16'b0, us, ticks, 12'b0, kind, 3'b101} with us 9000, ticks 136 and kind 1: vector M-2
theorem test_decode_match :
    decodeTableWord 64 0b0000000000000000001000110010100000000000100010000000000000001101
      = some (.matchWindow true 136#16 9000#16) := by decide

theorem test_decode_reserved_ops : decodeTableWord 64 0b1000 = some (.reservedOp0 1#61) ∧
    decodeTableWord 64 0b0110 = some (.reservedOp6 0#61) ∧ decodeTableWord 64 0b0111 = some (.reservedOp7 0#61) := by decide

theorem test_decode_reserved_bits : decodeTableWord 64 0b1001 = some (.reservedBits 9#64) ∧
    decodeTableWord 64 0xFFFFFFFFFFFFFFFA = some (.reservedBits 0xFFFFFFFFFFFFFFFA#64) := by decide

/-! ### A placed word is run by the next step -/

theorem test_placed_tick_runs :
    answers (step (State.reset.withFetchWord 8 0b11)) (fun t => decide (t.cnt = 1 ∧ t.inputs = [])) = true := by decide

theorem test_placed_command_runs :
    answers (step (State.reset.withFetchWord 64 0b011)) (fun t => decide (t.respStatus = .notReady ∧ t.inputs = [])) = true := by
  decide

/-! ### One step each -/

-- T-3
theorem test_tick_starts_a_capture :
    exec (.tick false) (sampler .idle 99 0) =
      .next { base with st := .timingMark, rawlen := 1, buf := [(0, 100)] } := by rfl

-- T-14
theorem test_tick_trailing_gap :
    answers (exec (.tick true) (sampler .timingSpace 100 2))
      (fun t => decide (t.st = .stopped ∧ t.cnt = 101 ∧ t.rawlen = 2 ∧ t.buf = [])) = true := by decide

-- S-1
theorem test_startReceiving :
    answers (exec .startReceiving (sampler .stopped 500 68))
      (fun t => decide (t.st = .idle ∧ t.cnt = 500 ∧ t.rawlen = 0 ∧ respWord t = 0x00000001#32)) = true := by decide

-- S-4
theorem test_resetCapture :
    answers (exec .resetCapture (sampler .stopped 1 100))
      (fun t => decide (t.st = .idle ∧ t.cnt = 1 ∧ t.rawlen = 0 ∧ ovf t = false ∧ respWord t = 0x00000001#32)) = true := by decide

-- D-5
theorem test_tryDecode_repeat :
    answers (exec .tryDecode (capture .stopped [121, 180, 45, 11]))
      (fun t => decide (respWord t = 0x00000012#32 ∧ resultWord t = 0xFFFFFFFF#32)) = true := by decide

-- D-20
theorem test_tryDecode_frame :
    answers (exec .tryDecode (capture .stopped (frame 32 0x20DF10EF#32)))
      (fun t => decide (respWord t = 0x00002012#32 ∧ resultWord t = 0x20DF10EF#32)) = true := by decide

-- X-3, LOW_FIELD
theorem test_transmit :
    answers (exec (.transmit 5#32 3#6 40#8) base) (fun t => decide (t.trace =
      [.cfg 40#8, .mark 9000, .space 4500, .mark 560, .space 1690, .mark 560, .space 560, .mark 560, .space 1690,
       .mark 560, .space 0] ∧ t.outKhz = 40#8 ∧ t.outEn = false ∧ t.busy = false ∧ respWord t = 0x00000001#32)) = true := by decide

-- X-9
theorem test_transmit_illegal :
    answers (exec (.transmit 0#32 33#6 38#8) base)
      (fun t => decide (t.trace = [] ∧ t.outKhz = 0 ∧ respWord t = 0x00000005#32)) = true := by decide

-- M-25
theorem test_match_negative :
    answers (exec (.matchWindow false 0#16 0#16) base)
      (fun t => decide (respWord t = 0x00000001#32 ∧ resultWord t = 0xFFFFFFFF#32)) = true := by decide

-- M-43
theorem test_match_high_edge :
    answers (exec (.matchWindow true 1641#16 65535#16) base)
      (fun t => decide (respWord t = 0x00000009#32 ∧ resultWord t = 0x066903D8#32)) = true := by decide

-- S-6, S-7, S-8, S-5
theorem test_reserved_words_are_illegal :
    (answers (exec (.reservedOp0 0#61) base) fun t => decide (respWord t = 0x00000005#32)) = true ∧
    (answers (exec (.reservedOp6 0#61) base) fun t => decide (respWord t = 0x00000005#32)) = true ∧
    (answers (exec (.reservedOp7 0#61) base) fun t => decide (respWord t = 0x00000005#32)) = true ∧
    (answers (exec (.reservedBits 9#64) base) fun t => decide (respWord t = 0x00000005#32)) = true := by decide

-- 95_test_vectors.md section 6, and P1 step 7
theorem test_registers :
    configWord refConfig = 0x00641064#32 ∧ statusWord (sampler .stopped 109 4) = 0x00000407#32 ∧
    (readRegister 0x005#12 base).1 = 0 ∧ (readRegister 0x0FF#12 base).1 = 0 ∧ (readRegister 0x164#12 base).1 = 0 ∧
    (readRegister 0xFFF#12 base).1 = 0 ∧ (readRegister 0x102#12 (capture .stopped [121, 180, 45, 11])).1 = 45#32 := by decide

/-! ### Witnesses: a state and operands that meet the hypotheses of each statement, clause by clause -/

theorem witness_DecodingAnEncodedOperationGivesItBack :
    (Instr.reservedBits 9#64).wellFormed = true ∧ (Instr.transmit 0#32 63#6 0#8).wellFormed = true ∧
    (Instr.matchWindow true 65535#16 65535#16).wellFormed = true := by decide

theorem witness_EveryPortWordHasOneMeaning :
    decode (.command 0x20DF10EF00004D04#64) = .ok (.transmit 0x20DF10EF#32 32#6 38#8) ∧
    decode (.event 0b00#2) = .error .noStrobe ∧ decode (.event 0b01#2) = .error .noStrobe := by decide

/-- Something on the ports. -/
abbrev offered (l : List Input) : State := { base with inputs := l }

theorem witness_StepRunsTheDecodedOperation :
    ((offered [.word (.command 3#64)]).inputs = .word (.command 3#64) :: [] ∧ (offered [.word (.command 3#64)]).busy = false ∧
      decode (.command 3#64) = .ok .tryDecode ∧ Instr.tryDecode.wellFormed = true) ∧
    (decode (.event 0b11#2) = .ok (.tick true) ∧ (Instr.tick true).wellFormed = true) ∧
    (offered [.word (.event 0b01#2)]).inputs = .word (.event 0b01#2) :: [] ∧ (0b01#2).getLsbD 1 = false ∧ base.inputs = [] := by
  decide

theorem witness_APlacedWordRunsNext :
    decodeTableWord 8 0b10 = some (.tick false) ∧ decodeTableWord 64 5 = some (.matchWindow false 0#16 0#16) := by decide

/-- A busy port with one command waiting. -/
abbrev busyPort (l : List Input) : State := { base with busy := true, inputs := l }

theorem witness_BusyPortLeavesCommandsWaiting :
    (busyPort [.word (.command 1#64)]).busy = true ∧
    (busyPort [.word (.command 1#64)]).inputs = [1#64].map (fun w => Input.word (.command w)) ∧
    (busyPort [.word (.command 1#64), .word (.event 0b11#2)]).inputs
      = [1#64].map (fun w => Input.word (.command w)) ++ .word (.event 0b11#2) :: [] ∧
    (0b11#2).getLsbD 1 = true := by decide

theorem witness_ResetCycleGivesTheResetValues :
    (busyPort [.reset, .word (.command 1#64)]).inputs = .reset :: [.word (.command 1#64)] := by decide

theorem witness_ResetMeetsTheInvariant : refConfig.Valid ∧ tinyConfig.Valid := by decide

theorem witness_EveryStepKeepsTheInvariant :
    (offered [.word (.event 0b11#2)]).Inv ∧
    step (offered [.word (.event 0b11#2)]) = .next { base with cnt := 1 } :=
  ⟨⟨by decide, by decide, by decide, rfl, by decide, by decide,
    fun _ h => absurd h (Nat.not_lt_zero _), rfl, rfl, ⟨rfl, rfl, rfl, rfl⟩⟩, rfl⟩

-- one state for each row of the table of R103: T-19, T-20, T-1, T-2, T-3, T-8, T-9, T-12, T-13, T-14, T-15, T-16
theorem witness_TickFollowsTheTransitionTable :
    refConfig.markLevel = false ∧
    refConfig.rawBuf ≤ (sampler .timingSpace 0 100).rawlen.toNat ∧
    ¬refConfig.rawBuf ≤ (sampler .timingMark 3 99).rawlen.toNat ∧
    (sampler .idle 98 0).cnt + 1 < refConfig.gapTicks ∧ refConfig.gapTicks ≤ (sampler .idle 99 0).cnt + 1 ∧
    (sampler .timingMark 10 1).st = .timingMark ∧
    (sampler .timingSpace 99 2).cnt + 1 ≤ refConfig.gapTicks ∧ refConfig.gapTicks < (sampler .timingSpace 100 2).cnt + 1 ∧
    (sampler .stopped 109 4).st = .stopped := by decide

theorem witness_TickLeavesEverythingElse :
    (sampler .idle 99 0).rawlen.toNat < refConfig.rawBuf ∧ refConfig.gapTicks ≤ ((sampler .idle 99 0).cnt + 1) % 2 ^ refConfig.cntW ∧
    (sampler .timingMark 3 99).rawlen.toNat < refConfig.rawBuf ∧ true ≠ refConfig.markLevel ∧ false = refConfig.markLevel ∧
    ¬(sampler .timingSpace 0 100).rawlen.toNat < refConfig.rawBuf := by decide

theorem witness_SamplerDependsOnlyOnItsOwnState :
    let s := sampler .timingMark 3 99
    let s' := { s with respStatus := .illegal, outKhz := 38#8, busy := true }
    s'.cfg = s.cfg ∧ s'.st = s.st ∧ s'.cnt = s.cnt ∧ s'.rawlen = s.rawlen ∧ s'.buf = s.buf := by decide

-- T-2 (noise) and T-3 (a gap)
theorem witness_AGapStartsACapture :
    base.cfg.Valid ∧ base.st = .idle ∧ base.rawlen = 0 ∧ base.cnt = 0 ∧ (98 + 1) % 2 ^ base.cfg.cntW < base.cfg.gapTicks ∧
    ¬(99 + 1) % 2 ^ base.cfg.cntW < base.cfg.gapTicks := by decide

theorem witness_TheTrailingGapEndsACapture :
    let s := sampler .timingSpace 0 4
    s.cfg.Valid ∧ s.st = .timingSpace ∧ s.cnt = 0 ∧ s.rawlen.toNat < s.cfg.rawBuf ∧ 100 ≤ s.cfg.gapTicks := by decide

theorem witness_AnEntryIsTheSampleCountOfItsRun :
    let s := sampler .timingMark 0 99
    let s' := sampler .timingSpace 0 2
    (s.cfg.Valid ∧ s.cnt = 0 ∧ s.rawlen.toNat < s.cfg.rawBuf ∧ s.st = .timingMark) ∧
    s'.cfg.Valid ∧ s'.cnt = 0 ∧ s'.rawlen.toNat < s'.cfg.rawBuf ∧ s'.st = .timingSpace ∧ 100 ≤ s'.cfg.gapTicks := by decide

theorem witness_AMarkHasNoTimeout :
    let s := sampler .timingMark 65535 1
    s.st = .timingMark ∧ s.rawlen.toNat < s.cfg.rawBuf ∧ s.cnt < 2 ^ s.cfg.cntW := by decide

theorem witness_TicksNeverWriteBeyondCapacity :
    let s := sampler .timingSpace 0 100
    s.cfg.Valid ∧ s.rawlen.toNat ≤ s.cfg.rawBuf ∧ s.cfg.rawBuf ≤ 100 := by decide

theorem witness_AStoppedCaptureIsStable : (capture .stopped [121, 180, 45, 11]).st = .stopped := by decide

theorem witness_AnAppendedEntryReadsBack : (sampler .timingMark 3 254).rawlen.toNat < 255 ∧ 3 ≠ (sampler .timingMark 3 254).rawlen.toNat := by
  decide

/-- A command word as the only port activity. -/
abbrev commandOffered (w : CommandWord) : State := offered [.word (.command w)]

theorem witness_RearmSetsIdleAndEmpty :
    (commandOffered 1#64).inputs = .word (.command 1#64) :: [] ∧ (commandOffered 1#64).busy = false ∧
    ((0x0000000000000009#64).extractLsb' 0 3 = 1 ∧ (0x0000000000000009#64) ≠ 1 ∧ (0x0000000000000009#64) ≠ 2) ∧
    (0xFFFFFFFFFFFFFFFA#64).extractLsb' 0 3 = 2 ∧ (0xFFFFFFFFFFFFFFFA#64) ≠ 1 ∧ (0xFFFFFFFFFFFFFFFA#64) ≠ 2 := by decide

theorem witness_ResetAndTickInEitherOrder :
    let gap := sampler .timingMark 99 1
    let noise := sampler .timingSpace 98 2
    gap.cfg.Valid ∧ gap.cfg.gapTicks ≤ (gap.cnt + 1) % 2 ^ gap.cfg.cntW ∧
    ¬noise.cfg.gapTicks ≤ (noise.cnt + 1) % 2 ^ noise.cfg.cntW := by decide

-- T-14
theorem witness_DecodeAndTickInEitherOrder :
    (sampler .timingSpace 100 2).st ≠ .stopped ∧
    exec (.tick true) (sampler .timingSpace 100 2) = .next (sampler .stopped 101 2) ∧ (sampler .stopped 101 2).st = .stopped :=
  ⟨by decide, rfl, rfl⟩

theorem witness_WindowBoundsRoundTowardZero : refConfig.Valid ∧ (0 : Int) ≤ 0 ∧ (0 : Int) ≤ 9100 ∧ (-50 : Int) ≤ 0 := by decide

-- M-1 to M-4, M-5 to M-8, M-25
theorem witness_WindowBoundsAreInclusive :
    refConfig.Valid ∧
    ((136 : Nat) : Int) = ticksLow refConfig ((9000 : Nat) + refConfig.excessMark) ∧
    ((228 : Nat) : Int) = ticksHigh refConfig ((9000 : Nat) + refConfig.excessMark) ∧
    ((135 : Nat) : Int) + 1 = ticksLow refConfig ((9000 : Nat) + refConfig.excessMark) ∧
    ((229 : Nat) : Int) = ticksHigh refConfig ((9000 : Nat) + refConfig.excessMark) + 1 ∧
    refConfig.excessSpace ≤ 4500 ∧ refConfig.excessSpace ≤ 100 ∧
    ((66 : Nat) : Int) = ticksLow refConfig ((4500 : Nat) - refConfig.excessSpace) ∧
    ((111 : Nat) : Int) = ticksHigh refConfig ((4500 : Nat) - refConfig.excessSpace) ∧
    ((65 : Nat) : Int) + 1 = ticksLow refConfig ((4500 : Nat) - refConfig.excessSpace) ∧
    ((112 : Nat) : Int) = ticksHigh refConfig ((4500 : Nat) - refConfig.excessSpace) + 1 ∧
    ticksHigh refConfig ((0 : Nat) - refConfig.excessSpace) < 0 := by decide

theorem witness_DecodeBeforeStoppedIsNotReady : (capture .timingSpace [121, 180]).st ≠ .stopped := by decide

-- D-5 (a repeat code) and D-10 (not one)
theorem witness_FourEntriesAreARepeatCodeOrInvalid :
    let s := capture .stopped [121, 180, 45, 11]
    let s' := capture .stopped [121, 180, 31, 11]
    (s.cfg.Valid ∧ s.st = .stopped ∧ s.rawlen = 4 ∧ matchMark s.cfg (memRead s 1) s.cfg.necHdrMark = true ∧
      matchSpace s.cfg (memRead s 2) s.cfg.necRptSpace = true ∧ matchMark s.cfg (memRead s 3) s.cfg.necBitMark = true) ∧
    s'.cfg.Valid ∧ s'.st = .stopped ∧ s'.rawlen = 4 ∧ matchMark s'.cfg (memRead s' 1) s'.cfg.necHdrMark = true ∧
      matchSpace s'.cfg (memRead s' 2) s'.cfg.necRptSpace = false := by decide

/-- A full frame of the short configuration, bits 1 and 0. -/
abbrev tinyFrame : State := { capture .stopped (frame 2 2#32) with cfg := tinyConfig }

theorem witness_AFullFrameDecodesFirstBitHighest :
    let s := tinyFrame
    s.cfg.Valid ∧ s.st = .stopped ∧ 2 * s.cfg.necBits + 4 ≤ s.rawlen.toNat ∧
    matchMark s.cfg (memRead s 1) s.cfg.necHdrMark = true ∧ matchSpace s.cfg (memRead s 2) s.cfg.necHdrSpace = true ∧
    (∀ i, i < s.cfg.necBits →
      matchMark s.cfg (memRead s (2 * i + 3)) s.cfg.necBitMark = true ∧
      (matchSpace s.cfg (memRead s (2 * i + 4)) s.cfg.necOneSpace = true ∨
       matchSpace s.cfg (memRead s (2 * i + 4)) s.cfg.necZeroSpace = true)) := by decide

/-- What a capture decodes to. -/
abbrev decoded (s : State) : Except InvalidCause Decoded := decodeCapture s.cfg s.rawlen.toNat (memRead s)

-- D-33, D-8, D-14, then a short frame with entry 2 = 65 (D-22), entry 5 = 18 (D-28), entry 6 = 41 (D-29), and whole
theorem witness_InvalidIsRaisedByTheSixChecksInOrder :
    (capture .stopped [121]).st = .stopped ∧
    decoded (capture .stopped [121]) = .error .tooShort ∧
    decoded (capture .stopped [121, 135, 45, 11]) = .error .headerMark ∧
    decoded (capture .stopped [121, 180, 45, 11, 11]) = .error .tooFewEntries ∧
    decoded { capture .stopped [121, 180, 65, 11, 34, 11, 11, 11] with cfg := tinyConfig } = .error .headerSpace ∧
    decoded { capture .stopped [121, 180, 90, 11, 34, 18, 11, 11] with cfg := tinyConfig } = .error (.bitMark 1) ∧
    decoded { capture .stopped [121, 180, 90, 11, 34, 11, 41, 11] with cfg := tinyConfig } = .error (.bitSpace 1) ∧
    decoded tinyFrame = .ok (.frame 2#32) := by decide

-- D-30 and D-31: the gap and the trailing mark differ
theorem witness_UncheckedEntriesHaveNoEffect :
    let s := tinyFrame
    let s' := { tinyFrame with buf := entriesFrom 0 [255, 180, 90, 11, 34, 11, 11, 1] }
    s.cfg.Valid ∧ s'.cfg = s.cfg ∧ s'.st = s.st ∧ s'.rawlen = s.rawlen ∧
    (∀ i, i ≤ 2 * s.cfg.necBits + 2 → 1 ≤ i → memRead s' i = memRead s i) ∧ memRead s' 0 ≠ memRead s 0 := by decide

theorem witness_DecodeNeverReadsPastTheLength :
    let s := capture .stopped [121, 180, 45, 11]
    (∀ i, i < s.rawlen.toNat → (entriesFrom 0 [121, 180, 45, 11, 7]).read? i = s.buf.read? i) ∧
    (entriesFrom 0 [121, 180, 45, 11, 7]).read? 4 ≠ s.buf.read? 4 := by decide

theorem witness_BitCountTellsRepeatFromFrame :
    (tinyFrame.cfg.Valid ∧ tinyFrame.st = .stopped ∧ tinyFrame.rawlen ≠ 4 ∧
      answers (exec .tryDecode tinyFrame) (fun t => decide (t.respStatus = .decoded ∧ t.respBits = 2)) = true) ∧
    (capture .stopped [121, 180, 45, 11]).rawlen = 4 ∧
      answers (exec .tryDecode (capture .stopped [121, 180, 45, 11]))
        (fun t => decide (t.respStatus = .decoded ∧ t.respBits = 0)) = true := by decide

theorem witness_TransmitEmitsTheFrame : (32#6).toNat ≤ 32 ∧ (0#6).toNat ≤ 32 ∧ (38#8) ≠ 0 := by decide

theorem witness_IllegalTransmitEmitsNothing : (32 < (33#6).toNat ∨ (38#8) = 0) ∧ (32 < (32#6).toNat ∨ (0#8) = 0) := by decide

-- the four forms of the last item: none, CFG, a mark, a space
theorem witness_BusyHoldsDuringATransmission :
    0 < 1 ∧
    ((transmitItems refConfig 5#32 3 40#8).take 1).getLast? = some (.cfg 40#8) ∧
    ((transmitItems refConfig 5#32 3 40#8).take 2).getLast? = some (.mark 9000) ∧
    ((transmitItems refConfig 5#32 3 40#8).take 11).getLast? = some (.space 0) := by decide

theorem witness_TicksDuringATransmissionCommute : (32#6).toNat ≤ 32 ∧ (255#8) ≠ 0 := by decide

-- one illegal word for each cause (S-6, S-7, S-8, S-9, X-11, X-9, X-10, M-47, M-48) and a legal one
theorem witness_ExactlyTheListedWordsAreIllegal :
    (commandOffered 0#64).inputs = .word (.command 0#64) :: [] ∧ (commandOffered 0#64).busy = false ∧
    ((0#64).extractLsb' 0 3).toNat = 0 ∧ ((6#64).extractLsb' 0 3).toNat = 6 ∧ ((7#64).extractLsb' 0 3).toNat = 7 ∧
    (((0xFFFFFFFFFFFFFFFA#64).extractLsb' 0 3).toNat = 2 ∧ (0xFFFFFFFFFFFFFFFA#64).getLsbD 63 = true) ∧
    (((0x0000000000024D04#64).extractLsb' 0 3).toNat = 4 ∧ (0x0000000000024D04#64).getLsbD 17 = true) ∧
    32 < ((0x0000000000004D0C#64).extractLsb' 3 6).toNat ∧ ((0x0000000000000104#64).extractLsb' 9 8).toNat = 0 ∧
    (((0x000023280088001D#64).extractLsb' 0 3).toNat = 5 ∧ (0x000023280088001D#64).getLsbD 4 = true) ∧
    (0x000123280088000D#64).getLsbD 48 = true ∧
    decodeCommand 0x000023280088000D#64 = .matchWindow true 136#16 9000#16 := by decide

theorem witness_StatusReadsItsFields : (offered [.read 0x000#12]).inputs = .read 0x000#12 :: [] := by decide

theorem witness_TheOtherRegistersReadTheirFields :
    refConfig.Valid ∧ (offered [.read 0x001#12]).inputs = .read 0x001#12 :: [] ∧
    (offered [.read 0x002#12]).inputs = .read 0x002#12 :: [] ∧ (offered [.read 0x003#12]).inputs = .read 0x003#12 :: [] ∧
    (offered [.read 0x004#12]).inputs = .read 0x004#12 :: [] := by decide

-- the last entry of a full buffer, and the unmapped addresses next to each mapped range
theorem witness_BufferWindowAndUnmappedReads :
    let s := { sampler .stopped 5 100 with inputs := [.read 0x163#12] }
    s.cfg.Valid ∧ s.inputs = .read 0x163#12 :: [] ∧ (0x163#12).toNat = 0x100 + 99 ∧ 99 < s.cfg.rawBuf ∧ 99 < s.rawlen.toNat ∧
    (5 ≤ (0x005#12).toNat ∧ (0x005#12).toNat ≤ 0xFF) ∧ (5 ≤ (0x0FF#12).toNat ∧ (0x0FF#12).toNat ≤ 0xFF) ∧
    0x100 + s.cfg.rawBuf ≤ (0x164#12).toNat ∧ 0x100 + s.cfg.rawBuf ≤ (0xFFF#12).toNat := by decide

theorem witness_StaleEntriesAreNeverReadAsKnown :
    let s := { capture .stopped [121, 180, 45, 11] with inputs := [.read 0x104#12] }
    let m := entriesFrom 0 [121, 180, 45, 11, 7]
    s.cfg.Valid ∧ s.inputs = .read 0x104#12 :: [] ∧ (∀ i, i < s.rawlen.toNat → m.read? i = s.buf.read? i) ∧
    (0x104#12).toNat = 0x100 + 4 ∧ 4 < s.cfg.rawBuf := by decide

/-- A long gap before a frame of two bits: the reference configuration but for NEC_BITS. -/
abbrev beforeReplay : State := { base with cfg := { refConfig with necBits := 2 }, cnt := 400 }

theorem witness_ATransmissionReplayedDecodesToItsValue :
    beforeReplay.cfg.Valid ∧ beforeReplay.st = .idle ∧ beforeReplay.rawlen = 0 ∧
    beforeReplay.cfg.gapTicks ≤ beforeReplay.cnt + 1 ∧ beforeReplay.cnt + 1 < 2 ^ beforeReplay.cfg.cntW ∧
    2 * beforeReplay.cfg.necBits + 4 ≤ beforeReplay.cfg.rawBuf ∧
    (∀ t, matchSpace beforeReplay.cfg t beforeReplay.cfg.necZeroSpace = true →
      matchSpace beforeReplay.cfg t beforeReplay.cfg.necOneSpace = false) ∧
    countsFit beforeReplay.cfg (transmitItems beforeReplay.cfg 2#32 2 38#8) [0, 180, 90, 12, 34, 11, 12, 11, 102] := by
  refine ⟨by decide, rfl, rfl, by decide, by decide, by decide, fun t h => ?_, ?_⟩
  · simp only [matchSpace, inWindow, Bool.and_eq_true, Bool.and_eq_false_iff, decide_eq_true_eq, decide_eq_false_iff_not] at h ⊢
    have hz : ticksHigh beforeReplay.cfg (correctedDuration beforeReplay.cfg false beforeReplay.cfg.necZeroSpace) = 12 := by decide
    have ho : ticksLow beforeReplay.cfg (correctedDuration beforeReplay.cfg false beforeReplay.cfg.necOneSpace) = 23 := by decide
    rw [hz] at h
    rw [ho]
    exact .inl (by omega)
  · have hi : transmitItems beforeReplay.cfg 2#32 2 38#8 =
        [.cfg 38#8, .mark 9000, .space 4500, .mark 560, .space 1690, .mark 560, .space 560, .mark 560, .space 0] := by decide
    rw [hi]
    refine .cons trivial ?_
    repeat' refine List.Forall₂.cons ?_ ?_
    all_goals first | exact .nil | (simp only [countFits]; decide)

theorem witness_ReferenceSampleCountsLieInTheirWindows :
    PossibleCount refConfig refConfig.necHdrMark 180 ∧ PossibleCount refConfig refConfig.necHdrSpace 90 ∧
    PossibleCount refConfig refConfig.necBitMark 12 ∧ PossibleCount refConfig refConfig.necOneSpace 33 ∧
    PossibleCount refConfig refConfig.necZeroSpace 11 ∧ 40 < 41 := by
  simp only [PossibleCount]
  decide

end Sys2Proof.Tests
end

section
/-! SUPPORT. The scope of the block (00_scope.md): every step completes and keeps the parameters, and the state after reset meets
the invariant. -/

namespace Sys2Proof.Machine

/-! ### The parameters under the operations that have no field lemma for them yet (00_scope.md R7) -/

theorem OnlyResponds.cfg {s t : State} (h : OnlyResponds s t) : t.cfg = s.cfg :=
  (congrArg State.cfg h :)

@[simp] theorem respondDecode_cfg (s : State) (r : Except InvalidCause Decoded) : (respondDecode s r).cfg = s.cfg :=
  (respondDecode_onlyResponds s r).cfg

@[simp] theorem tickStep_cfg (level : Level) (s : State) : (tickStep level s).cfg = s.cfg :=
  (congrArg State.cfg (tickStep_keeps level s) :)

@[simp] theorem transmitPhase_cfg (value : BitVec 32) (nbits : Nat) (khz : BitVec 8) (k : Nat) (s : State) :
    (transmitPhase value nbits khz k s).cfg = s.cfg :=
  (congrArg State.cfg (transmitPhase_keeps value nbits khz k s) :)

@[simp] theorem hostRead_cfg (a : RegAddr) (s : State) : (hostRead a s).cfg = s.cfg :=
  (congrArg State.cfg (hostRead_keeps a s) :)

/-! ### Every step completes and keeps the parameters -/

/-- No operation stops (60_exceptions.md R190), and none writes a parameter (00_scope.md R7). -/
theorem exec_next_cfg (i : Instr) (s : State) : ∃ t, exec i s = .next t ∧ t.cfg = s.cfg := by
  cases i with
  | tick level => exact ⟨_, rfl, tickStep_cfg level s⟩
  | startReceiving | resetCapture => exact ⟨_, rfl, rearm_cfg s⟩
  | tryDecode =>
    rcases execTryDecode_cases s with ⟨-, h⟩ | ⟨-, h⟩
    · exact ⟨_, h, raise_cfg _ s⟩
    · exact ⟨_, h, respondDecode_cfg s _⟩
  | transmit value nbits khz =>
    rcases execTransmit_cases value nbits khz s with ⟨-, h⟩ | ⟨-, h⟩
    · exact ⟨_, h, by simp⟩
    · exact ⟨_, h, raise_cfg _ s⟩
  | matchWindow kind ticks us => exact ⟨_, rfl, respond_cfg ..⟩
  | reservedOp0 | reservedOp6 | reservedOp7 | reservedBits => exact ⟨_, rfl, raise_cfg _ s⟩

/-- Settles O8: one case for each thing a step can do (`step_cases`). -/
theorem everyStepCompletesAndKeepsTheParameters : Obligations.EveryStepCompletesAndKeepsTheParameters := by
  intro s
  rcases step_cases s with ⟨-, h⟩ | ⟨rest, -, h⟩ | ⟨a, rest, -, h⟩ | ⟨p, rest, i, -, -, h⟩ | ⟨p, rest, -, -, h⟩
  · exact ⟨_, h, rfl⟩
  · exact ⟨_, h, resetCycle_cfg _⟩
  · exact ⟨_, h, hostRead_cfg a _⟩
  · rw [h]
    exact exec_next_cfg i _
  · exact ⟨_, h, rfl⟩

/-! ### The state after reset -/

/-- The reset values of 10_state.md R51 meet the invariant for every valid parameter setting. -/
theorem resetWith_inv {c : Config} (h : c.Valid) : (State.resetWith c).Inv where
  cfgValid := h
  cntWidth := Nat.two_pow_pos c.cntW
  rawlenBound := Nat.zero_le c.rawBuf
  lengthOk := rfl
  bufWf := resetWith_wf c
  bufBounds _ hp := absurd hp List.not_mem_nil
  captured i hi := absurd hi (Nat.not_lt_zero i)
  notBusy := rfl
  outputOff := rfl
  responseOk := ⟨rfl, rfl, rfl, rfl⟩

/-- The reference configuration meets the constraints of 00_scope.md R7, none of which reads the two parameters without a
reference value: one choice of them stands for every other. -/
theorem reference_valid (anchor : BitAnchor) (err : Nat) : (Config.reference anchor err).Valid :=
  have hvalid : (Config.reference .lowField 0).Valid := by decide
  hvalid

/-- Settles O9: `State.reset` is the reset state of one reference configuration. -/
theorem resetMeetsTheInvariant : Obligations.ResetMeetsTheInvariant :=
  ⟨fun _ hc => resetWith_inv hc, reference_valid, resetWith_inv (reference_valid _ _)⟩

end Sys2Proof.Machine
end

section
/-! SUPPORT. The state (10_state.md): what the operations leave of the SAMPLER's registers, the invariant of every reachable
state, the reset values and the register map. -/

namespace Sys2Proof.Machine

/-! ### The registers of the SAMPLER under the commands (60_exceptions.md R199) -/

/-- The SAMPLER's registers, and the parameters, are the same in both states. -/
structure SameSampler (s t : State) : Prop where
  cfg : t.cfg = s.cfg
  st : t.st = s.st
  cnt : t.cnt = s.cnt
  rawlen : t.rawlen = s.rawlen
  buf : t.buf = s.buf

theorem OnlyResponds.sameSampler {s t : State} (h : OnlyResponds s t) : SameSampler s t := by
  rw [h]
  exact ⟨rfl, rfl, rfl, rfl, rfl⟩

theorem transmitPhase_sameSampler (value : BitVec 32) (nbits : Nat) (khz : BitVec 8) (k : Nat) (s : State) :
    SameSampler s (transmitPhase value nbits khz k s) := by
  rw [transmitPhase_keeps]
  exact ⟨rfl, rfl, rfl, rfl, rfl⟩

/-! ### The outputs along a transmission (43_encoder.md R171) -/

/-- out_en after some items is the one that the last of them sets. -/
theorem foldl_emit_outEn {items : List TraceItem} {item : TraceItem} (h : items.getLast? = some item) (s : State) :
    (items.foldl emit s).outEn = (drive item s).outEn := by
  obtain ⟨front, rfl⟩ := List.getLast?_eq_some_iff.1 h
  rw [foldl_emit_concat]
  cases item <;> rfl

/-- out_khz stays where every CFG among the items sets the frequency it has. -/
theorem foldl_emit_outKhz {items : List TraceItem} {khz : BitVec 8} {s : State} (hs : s.outKhz = khz)
    (h : ∀ x, .cfg x ∈ items → x = khz) : (items.foldl emit s).outKhz = khz := by
  induction items generalizing s with
  | nil => exact hs
  | cons item items ih =>
    refine ih ?_ fun x hx => h x (List.mem_cons_of_mem _ hx)
    cases item with
    | cfg x => exact h x List.mem_cons_self
    | mark | space => exact hs

/-- The one CFG of a transmission sets its khz (43_encoder.md R172). -/
theorem cfg_mem_transmitItems {c : Config} {value : BitVec 32} {nbits : Nat} {khz x : BitVec 8}
    (h : .cfg x ∈ transmitItems c value nbits khz) : x = khz := by
  simpa [transmitItems, bitItems] using h

/-- A transmission ends with SPACE(0) (43_encoder.md R174). -/
theorem transmitItems_getLast? (c : Config) (value : BitVec 32) (nbits : Nat) (khz : BitVec 8) :
    (transmitItems c value nbits khz).getLast? = some (.space 0) := by
  rw [transmitItems, List.getLast?_append]
  rfl

/-- After its first item a transmission has set out_khz. -/
theorem transmitPhase_outKhz (value : BitVec 32) (nbits : Nat) (khz : BitVec 8) (k : Nat) (s : State) :
    (transmitPhase value nbits khz (k + 1) s).outKhz = khz :=
  foldl_emit_outKhz (s := emit { s with busy := true } (.cfg khz)) rfl fun _ hx =>
    cfg_mem_transmitItems (List.mem_of_mem_take (List.mem_cons_of_mem (.cfg khz) hx : _ ∈ List.take (k + 1) _))

/-- The whole transmission leaves out_en 0. -/
theorem transmitPhase_length_outEn (value : BitVec 32) (nbits : Nat) (khz : BitVec 8) (s : State) :
    (transmitPhase value nbits khz (transmitItems s.cfg value nbits khz).length s).outEn = false := by
  unfold transmitPhase
  rw [List.take_length, foldl_emit_outEn (transmitItems_getLast? ..)]
  rfl

/-! ### What an operation can do to the SAMPLER and to the ports -/

/-- A host command that is no re-arm command went from `s` to `t`: it left the SAMPLER alone, left no output on, and answered as
60_exceptions.md R191 says. -/
structure Answered (s t : State) : Prop extends SameSampler s t where
  busy : s.busy = false → t.busy = false
  outEn : s.outEn = false → t.outEn = false
  response : s.cfg.Valid → responseFits t

/-- A command that writes only the response fields, and fits them to the status. -/
theorem OnlyResponds.answered {s t : State} (h : OnlyResponds s t) (hr : s.cfg.Valid → responseFits t) : Answered s t where
  toSameSampler := h.sameSampler
  busy hb := (congrArg State.busy h).trans hb
  outEn ho := (congrArg State.outEn h).trans ho
  response := hr

/-- A raised status answers zeros, which fit every status but DECODED. -/
theorem raise_responseFits {e : Status} (h : e ≠ .decoded) (s : State) : responseFits (raise e s) := by
  cases e with
  | decoded => exact absurd rfl h
  | ok => exact ⟨rfl, rfl⟩
  | none | notReady | invalid | illegal => exact ⟨rfl, rfl, rfl, rfl⟩

theorem raise_answered {e : Status} (h : e ≠ .decoded) (s : State) : Answered s (raise e s) :=
  (raise_onlyResponds e s).answered fun _ => raise_responseFits h s

/-- NEC_BITS is at most 32 (00_scope.md R7), and so is a DECODED bit count. -/
theorem respondDecode_responseFits {s : State} (h : s.cfg.Valid) (r : Except InvalidCause Decoded) :
    responseFits (respondDecode s r) := by
  obtain ⟨-, -, -, -, -, -, -, -, -, -, -, ⟨-, hbits⟩, -⟩ := h
  rcases r with _ | _ | data
  · exact raise_responseFits (by decide) s
  · exact ⟨rfl, rfl, Nat.zero_le 32⟩
  · exact ⟨rfl, rfl, (Nat.mod_le s.cfg.necBits (2 ^ 6)).trans hbits⟩

theorem respondDecode_answered (s : State) (r : Except InvalidCause Decoded) : Answered s (respondDecode s r) :=
  (respondDecode_onlyResponds s r).answered fun h => respondDecode_responseFits h r

/-- A completed TRANSMIT ends with busy and out_en 0 and the response OK (43_encoder.md R170, R174). -/
theorem transmitEnd_answered {s t : State} (h : SameSampler s t) (ho : t.outEn = false) :
    Answered s (transmitEnd t) where
  cfg := h.cfg
  st := h.st
  cnt := h.cnt
  rawlen := h.rawlen
  buf := h.buf
  busy _ := rfl
  outEn _ := ho
  response _ := ⟨rfl, rfl⟩

/-- An operation is a TICK, re-arms, or answers and leaves the SAMPLER alone (60_exceptions.md R199). -/
theorem exec_cases (i : Instr) (s : State) :
    (∃ level, i = .tick level ∧ exec i s = .next (tickStep level s)) ∨
    ((i = .startReceiving ∨ i = .resetCapture) ∧ exec i s = .next (rearm s)) ∨
    ((∀ level, i ≠ .tick level) ∧ i ≠ .startReceiving ∧ i ≠ .resetCapture ∧
      ∃ t, exec i s = .next t ∧ Answered s t) := by
  cases i with
  | tick level => exact .inl ⟨level, rfl, rfl⟩
  | startReceiving => exact .inr (.inl ⟨.inl rfl, rfl⟩)
  | resetCapture => exact .inr (.inl ⟨.inr rfl, rfl⟩)
  | tryDecode =>
    refine .inr (.inr ⟨nofun, nofun, nofun, ?_⟩)
    rcases execTryDecode_cases s with ⟨-, h⟩ | ⟨-, h⟩
    · exact ⟨_, h, raise_answered (by decide) s⟩
    · exact ⟨_, h, respondDecode_answered s _⟩
  | transmit value nbits khz =>
    refine .inr (.inr ⟨nofun, nofun, nofun, ?_⟩)
    rcases execTransmit_cases value nbits khz s with ⟨-, h⟩ | ⟨-, h⟩
    · exact ⟨_, h, transmitEnd_answered (transmitPhase_sameSampler ..) (transmitPhase_length_outEn ..)⟩
    · exact ⟨_, h, raise_answered (by decide) s⟩
  | matchWindow kind ticks us =>
    exact .inr (.inr ⟨nofun, nofun, nofun, _, rfl, (respond_onlyResponds ..).answered fun _ => ⟨rfl, rfl⟩⟩)
  | reservedOp0 | reservedOp6 | reservedOp7 | reservedBits =>
    exact .inr (.inr ⟨nofun, nofun, nofun, _, rfl, raise_answered (by decide) s⟩)

/-! ### The invariant -/

/-- The invariant says nothing of the observations of the ports. -/
theorem State.Inv.withPorts {s : State} (h : s.Inv) (inputs : List Input) (rdata : RegWord) (draws : Nat) :
    State.Inv { s with inputs := inputs, rdata := rdata, draws := draws } :=
  ⟨h.cfgValid, h.cntWidth, h.rawlenBound, h.lengthOk, h.bufWf, h.bufBounds, h.captured, h.notBusy, h.outputOff, h.responseOk⟩

/-- An answer keeps the invariant. -/
theorem Answered.inv {s t : State} (h : Answered s t) (hs : s.Inv) : t.Inv where
  cfgValid := h.cfg ▸ hs.cfgValid
  cntWidth := by rw [h.cnt, h.cfg]; exact hs.cntWidth
  rawlenBound := by rw [h.rawlen, h.cfg]; exact hs.rawlenBound
  lengthOk := by
    have hfits := hs.lengthOk
    unfold lengthFits at hfits ⊢
    rwa [h.st, h.rawlen, h.cnt, h.cfg]
  bufWf := h.buf ▸ hs.bufWf
  bufBounds := by rw [h.buf, h.cfg]; exact hs.bufBounds
  captured := by rw [h.buf, h.rawlen]; exact hs.captured
  notBusy := h.busy hs.notBusy
  outputOff := h.outEn hs.outputOff
  responseOk := h.response hs.cfgValid

/-- The re-arm commands empty the buffer and answer OK. -/
theorem rearm_inv {s : State} (h : s.Inv) : (rearm s).Inv :=
  { h with
    rawlenBound := Nat.zero_le _
    lengthOk := rfl
    captured := fun i hi => absurd hi (Nat.not_lt_zero i)
    responseOk := ⟨rfl, rfl⟩ }

/-- Counting and changing state keep the invariant where the count has its width and the length fits the new state. -/
theorem State.Inv.withCount {s : State} (h : s.Inv) {n : Nat} {x : ReceiverState} (hn : n < cntModulus s.cfg)
    (hl : lengthFits { s with cnt := n, st := x }) : State.Inv { s with cnt := n, st := x } :=
  { h with cntWidth := hn, lengthOk := hl }

/-- Writing entry `i`, a cell of the buffer that is no later than the next one, and ending the length behind it keeps the
invariant. -/
theorem State.Inv.withEntry {s : State} (h : s.Inv) {i v : Nat} {x : ReceiverState} {l : BitVec 8}
    (hi : i < s.cfg.rawBuf) (hir : i ≤ s.rawlen.toNat) (hv : v < cntModulus s.cfg) (hlen : l.toNat = i + 1)
    (hl : lengthFits { s with cnt := 0, st := x, rawlen := l, buf := s.buf.write i v }) :
    State.Inv { s with cnt := 0, st := x, rawlen := l, buf := s.buf.write i v } :=
  { h with
    cntWidth := Nat.two_pow_pos _
    rawlenBound := hlen.trans_le hi
    lengthOk := hl
    bufWf := Memory.write_wf i v h.bufWf
    bufBounds := fun p hp => by
      rcases Memory.mem_write hp with rfl | hp
      · exact ⟨hi, hv⟩
      · exact h.bufBounds p hp
    captured := fun j hj => by
      have hj' : j < i + 1 := hlen ▸ hj
      by_cases hji : j = i
      · rw [hji, Memory.read?_write_same]; rfl
      · rw [Memory.read?_write_other _ _ _ _ hji]
        exact h.captured j (by omega) }

/-- Below capacity the length does not wrap: RAWBUF is at most 255 (00_scope.md R7). -/
theorem rawlen_succ_toNat {s : State} (h : s.cfg.Valid) (hb : s.rawlen.toNat < s.cfg.rawBuf) :
    (s.rawlen + 1).toNat = s.rawlen.toNat + 1 := by
  obtain ⟨-, ⟨-, hmax⟩, -⟩ := h
  bv_omega

/-- Everything a TICK can do keeps the invariant (10_state.md R40). -/
theorem TickEffect.inv {s t : State} (he : TickEffect s t) (h : s.Inv) : t.Inv := by
  have hpos : 0 < cntModulus s.cfg := Nat.two_pow_pos _
  have hfits := h.lengthOk
  cases he with
  | counted hb hg =>
    refine h.withCount (nextCnt_lt s) ?_
    unfold lengthFits at hfits ⊢
    cases hst : s.st with
    | timingSpace =>
      rw [hst] at hfits
      obtain ⟨heven, htwo, -⟩ := hfits
      exact ⟨heven, htwo, hg hst⟩
    | idle | timingMark | stopped => simpa [hst] using hfits
  | cleared hb hst =>
    refine h.withCount hpos ?_
    rcases hst with hst | hst <;> simpa [lengthFits, hst] using hfits
  | overrun hb n hn =>
    refine h.withCount (by rcases hn with rfl | rfl; exacts [hpos, nextCnt_lt s]) ?_
    exact .inr (Nat.le_antisymm h.rawlenBound hb)
  | gapEnded hst hb hg =>
    simp only [lengthFits, hst] at hfits
    obtain ⟨heven, htwo, -⟩ := hfits
    exact h.withCount (nextCnt_lt s) (.inl ⟨heven, htwo⟩)
  | started hst hb hg =>
    exact h.withEntry (Nat.zero_lt_of_lt hb) (Nat.zero_le _) (nextCnt_lt s) rfl ⟨rfl, Nat.le_refl 1⟩
  | markEnded hst hb =>
    simp only [lengthFits, hst] at hfits
    have hlen := rawlen_succ_toNat h.cfgValid hb
    refine h.withEntry hb (Nat.le_refl _) (nextCnt_lt s) hlen ?_
    simp only [lengthFits, hlen]
    omega
  | spaceEnded hst hb =>
    simp only [lengthFits, hst] at hfits
    have hlen := rawlen_succ_toNat h.cfgValid hb
    refine h.withEntry hb (Nat.le_refl _) (nextCnt_lt s) hlen ?_
    simp only [lengthFits, hlen]
    omega

/-- Every operation keeps the invariant. -/
theorem exec_inv {i : Instr} {s t : State} (h : s.Inv) (he : exec i s = .next t) : t.Inv := by
  rcases exec_cases i s with ⟨level, -, hi⟩ | ⟨-, hi⟩ | ⟨-, -, -, u, hi, hu⟩
  · cases hi.symm.trans he
    exact (tickStep_effect level s).inv h
  · cases hi.symm.trans he
    exact rearm_inv h
  · cases hi.symm.trans he
    exact hu.inv h

/-- Settles O10: one case for each thing a step can do. -/
theorem everyStepKeepsTheInvariant : Obligations.EveryStepKeepsTheInvariant := by
  intro s t h ht
  have hrest (rest : List Input) : State.Inv { s with inputs := rest } := h.withPorts rest s.rdata s.draws
  rcases step_cases s with ⟨-, hs⟩ | ⟨rest, -, hs⟩ | ⟨a, rest, -, hs⟩ | ⟨p, rest, i, -, -, hs⟩ | ⟨p, rest, -, -, hs⟩
  · cases hs.symm.trans ht
    exact h
  · cases hs.symm.trans ht
    exact (resetWith_inv h.cfgValid).withPorts rest 0 s.draws
  · cases hs.symm.trans ht
    rw [hostRead_keeps]
    exact (hrest rest).withPorts rest _ _
  · exact exec_inv (hrest rest) (hs.symm.trans ht)
  · cases hs.symm.trans ht
    exact hrest rest

/-! ### The rights of the agents -/

/-- Settles O44, by what an operation can do to the SAMPLER (`exec_cases`). -/
theorem agentsWriteOnlyWhatTheyMay : Obligations.AgentsWriteOnlyWhatTheyMay := by
  intro i s
  rcases exec_cases i s with ⟨level, rfl, h⟩ | ⟨hi, h⟩ | ⟨htick, hstart, hreset, t, h, ht⟩
  · refine ⟨_, h, fun _ => ?_, fun hne => absurd rfl (hne level), fun hne => absurd rfl (hne level), nofun⟩
    rw [tickStep_keeps]
    exact ⟨rfl, rfl, rfl, rfl, rfl, rfl, rfl, rfl⟩
  · refine ⟨_, h, ?_, fun _ => ⟨rfl, rfl⟩, fun _ hstart hreset => absurd hi (not_or.2 ⟨hstart, hreset⟩), fun _ => ⟨rfl, rfl⟩⟩
    rintro ⟨level, rfl⟩
    exact hi.elim nofun nofun
  · exact ⟨t, h, fun ⟨level, hi⟩ => absurd hi (htick level), fun _ => ⟨ht.cnt, ht.buf⟩, fun _ _ _ => ⟨ht.st, ht.rawlen⟩,
      fun hi => absurd hi (not_or.2 ⟨hstart, hreset⟩)⟩

/-! ### Inside a TRANSMIT -/

/-- With nothing to take the state stays. -/
theorem step_of_nextInput_none {s : State} (h : nextInput (!s.busy) s.inputs = none) : step s = .next s := by
  unfold step
  rw [cmdReady_eq, h]

/-- A port that is not ready takes no command, however many are offered (30_encoding.md R90). -/
theorem nextInput_commands (ws : List CommandWord) :
    nextInput false (ws.map fun w => Input.word (.command w)) = none := by
  induction ws with
  | nil => rfl
  | cons w ws ih => simp [nextInput, Input.isCommand, ih]

/-- Settles O40: the items write the trace and the outputs only, and the last one decides out_en. -/
theorem busyHoldsDuringATransmission : Obligations.BusyHoldsDuringATransmission := by
  intro s value nbits khz k ws t
  have hbusy : t.busy = true := congrArg State.busy (transmitPhase_keeps value nbits khz k s)
  have hsampler : SameSampler s t := transmitPhase_sameSampler value nbits khz k s
  have hlast {item : TraceItem} (h : ((transmitItems s.cfg value nbits khz).take k).getLast? = some item) :
      t.outEn = (drive item { s with busy := true }).outEn := foldl_emit_outEn h _
  refine ⟨hbusy, ?_, step_of_nextInput_none ?_, hsampler.st, hsampler.cnt, hsampler.rawlen, hsampler.buf,
    congrArg State.trace (transmitPhase_keeps value nbits khz k s), ?_, ?_, fun us h => hlast h, fun us h => hlast h,
    fun h => hlast h⟩
  · rw [cmdReady_eq, hbusy]
    rfl
  · simp only [hbusy]
    exact nextInput_commands ws
  · rintro rfl
    exact ⟨rfl, rfl⟩
  · intro hk
    obtain ⟨k, rfl⟩ := Nat.exists_eq_add_one.2 hk
    exact transmitPhase_outKhz value nbits khz k s

/-! ### Reset -/

/-- A reset at the front is taken, busy or not. -/
theorem step_reset {s : State} {rest : List Input} (h : s.inputs = .reset :: rest) :
    step s = .next (resetCycle { s with inputs := rest }) := by
  unfold step
  rw [h, nextInput_of_not_command rfl]

/-- Settles O7: the values are those of `resetCycle`. -/
theorem resetCycleGivesTheResetValues : Obligations.ResetCycleGivesTheResetValues := by
  intro s rest h
  exact ⟨rfl, _, step_reset h, rfl, rfl, rfl, rfl, rfl, rfl, rfl, rfl, rfl, rfl, rfl, rfl, rfl, rfl⟩

/-! ### The register map -/

/-- A read whose register answers `v` and draws nothing writes `v` to rdata and nothing else (20_memory.md R71). -/
theorem step_read_word {s : State} {a : RegAddr} {rest : List Input} {v : RegWord} (h : s.inputs = .read a :: rest)
    (hr : readRegister a { s with inputs := rest } = (v, { s with inputs := rest })) :
    step s = .next { s with inputs := rest, rdata := v } := by
  rw [step_read h, hostRead, hr]

/-! The words of the register map are put together with the high field first (10_state.md R43 to R47): a field reads back when
the fields below it are taken off. -/

theorem statusWord_flags (s : State) :
    (statusWord s).getLsbD 2 = ready s ∧ (statusWord s).getLsbD 3 = ovf s ∧
    (statusWord s).getLsbD 4 = s.busy ∧ (statusWord s).getLsbD 5 = s.outEn := by
  simp only [statusWord, BitVec.getLsbD_append]
  simp

theorem statusWord_fields (s : State) :
    (statusWord s).extractLsb' 0 2 = s.st.code ∧ (statusWord s).extractLsb' 6 2 = 0 ∧
    (statusWord s).extractLsb' 8 8 = s.rawlen ∧ (statusWord s).extractLsb' 16 8 = s.outKhz ∧
    (statusWord s).extractLsb' 24 8 = 0 := by
  unfold statusWord
  refine ⟨?_, ?_, ?_, ?_, ?_⟩
  all_goals repeat rw [BitVec.extractLsb'_append_eq_of_le (by decide)]
  exacts [BitVec.extractLsb'_append_eq_right, BitVec.extractLsb'_append_eq_right, BitVec.extractLsb'_append_eq_right,
    BitVec.extractLsb'_append_eq_right, BitVec.extractLsb'_eq_self]

theorem respWord_hit (s : State) : (respWord s).getLsbD 3 = s.respHit := by
  simp only [respWord, BitVec.getLsbD_append]
  simp

theorem respWord_fields (s : State) :
    (respWord s).extractLsb' 0 3 = s.respStatus.code ∧ (respWord s).extractLsb' 4 4 = s.respProto ∧
    (respWord s).extractLsb' 8 6 = s.respBits ∧ (respWord s).extractLsb' 14 18 = 0 := by
  unfold respWord
  refine ⟨?_, ?_, ?_, ?_⟩
  all_goals repeat rw [BitVec.extractLsb'_append_eq_of_le (by decide)]
  exacts [BitVec.extractLsb'_append_eq_right, BitVec.extractLsb'_append_eq_right, BitVec.extractLsb'_append_eq_right,
    BitVec.extractLsb'_eq_self]

theorem configWord_fields (c : Config) :
    (configWord c).extractLsb' 0 8 = BitVec.ofNat 8 c.rawBuf ∧ (configWord c).extractLsb' 8 6 = BitVec.ofNat 6 c.cntW ∧
    (configWord c).extractLsb' 14 2 = 0 ∧ (configWord c).extractLsb' 16 16 = BitVec.ofNat 16 c.gapTicks := by
  unfold configWord
  refine ⟨?_, ?_, ?_, ?_⟩
  all_goals repeat rw [BitVec.extractLsb'_append_eq_of_le (by decide)]
  exacts [BitVec.extractLsb'_append_eq_right, BitVec.extractLsb'_append_eq_right, BitVec.extractLsb'_append_eq_right,
    BitVec.extractLsb'_eq_self]

/-- A value of CNT_W bits fits a register word (00_scope.md R7, 10_state.md R44). -/
theorem lt_two_pow_32_of_lt_cntModulus {c : Config} (h : c.Valid) {n : Nat} (hn : n < cntModulus c) : n < 2 ^ 32 := by
  obtain ⟨-, -, -, ⟨-, hw⟩, -⟩ := h
  exact hn.trans_le (Nat.pow_le_pow_right (by decide) hw)

theorem countWord_toNat {s : State} (h : s.cfg.Valid) : (countWord s).toNat = s.cnt % cntModulus s.cfg :=
  Nat.mod_eq_of_lt (lt_two_pow_32_of_lt_cntModulus h (Nat.mod_lt _ (Nat.two_pow_pos _)))

/-- An address of the buffer window reads its entry's word (10_state.md R48). -/
theorem readRegister_window {a : RegAddr} {i : Nat} {s : State} (ha : a.toNat = 0x100 + i) (hi : i < s.cfg.rawBuf) :
    readRegister a s = bufWord i s := by
  have hidx : bufIndex? s.cfg a = some i := by
    rw [bufIndex?, if_pos (by omega), ha, Nat.add_sub_cancel_left]
  unfold readRegister
  split
  case h_6 => rw [hidx]
  all_goals omega

/-- An address past the five registers and outside the buffer window reads 0 (10_state.md R49). -/
theorem readRegister_unmapped {a : RegAddr} {s : State} (ha : 5 ≤ a.toNat)
    (hw : a.toNat ≤ 0xFF ∨ 0x100 + s.cfg.rawBuf ≤ a.toNat) : readRegister a s = (0, s) := by
  have hidx : bufIndex? s.cfg a = none := if_neg (by omega)
  unfold readRegister
  split
  case h_6 => rw [hidx]
  all_goals omega

/-- Below rawlen the word is the entry, zero-extended (10_state.md R48). -/
theorem bufWord_below {i : Nat} {s : State} (hi : i < s.rawlen.toNat) :
    bufWord i s = (BitVec.ofNat 32 (memRead s i), s) := if_pos hi

/-- Settles O45: address 0 reads `statusWord`, field by field. -/
theorem statusReadsItsFields : Obligations.StatusReadsItsFields := by
  intro s rest h
  obtain ⟨hready, hovf, hbusy, houtEn⟩ := statusWord_flags s
  obtain ⟨hst, hfields⟩ := statusWord_fields s
  refine ⟨statusWord s, step_read_word h rfl, ?_, hready, hovf, hbusy, houtEn, hfields⟩
  rw [hst]
  cases s.st <;> rfl

/-- Settles O46: addresses 1 to 4 read `countWord`, `respWord`, `resultWord` and `configWord`, field by field. -/
theorem theOtherRegistersReadTheirFields : Obligations.TheOtherRegistersReadTheirFields := by
  intro s rest hc
  refine ⟨fun h => ?_, fun h => ?_, fun h => step_read_word h rfl, fun h => ?_⟩
  · exact ⟨countWord s, step_read_word h rfl, countWord_toNat hc⟩
  · obtain ⟨hstatus, hfields⟩ := respWord_fields s
    refine ⟨respWord s, step_read_word h rfl, ?_, respWord_hit s, hfields⟩
    rw [hstatus]
    cases s.respStatus <;> rfl
  · obtain ⟨-, ⟨-, hraw⟩, -, ⟨-, hw⟩, -⟩ := hc
    obtain ⟨hrawBuf, hcntW, hreserved, hgapTicks⟩ := configWord_fields s.cfg
    refine ⟨configWord s.cfg, step_read_word h rfl, ?_, ?_, hreserved, congrArg BitVec.toNat hgapTicks⟩
    · rw [hrawBuf]
      exact Nat.mod_eq_of_lt (by omega)
    · rw [hcntW]
      exact Nat.mod_eq_of_lt (by omega)

/-- Settles O47, by the two lemmas on what an address reads. -/
theorem bufferWindowAndUnmappedReads : Obligations.BufferWindowAndUnmappedReads := by
  intro s a rest hc h
  refine ⟨fun i ha hi hlen => ?_, fun ha => ?_⟩
  · have hread : readRegister a { s with inputs := rest } = bufWord i { s with inputs := rest } :=
      readRegister_window ha hi
    refine ⟨_, step_read_word h (hread.trans (bufWord_below hlen)), ?_⟩
    exact Nat.mod_eq_of_lt (lt_two_pow_32_of_lt_cntModulus hc (memRead_lt s i))
  · exact step_read_word h (readRegister_unmapped (by omega) (ha.imp And.right id))

end Sys2Proof.Machine
end

section
/-! SUPPORT. The buffer (20_memory.md): what an Append and a TICK write of it, what a decode and a host read see of it, and the
step that runs a port word. -/

namespace Sys2Proof.Machine

/-! ### Append (20_memory.md R62, R64) -/

/-- The appended entry reads back modulo 2^CNT_W. -/
theorem memRead_append_same (v : Nat) (s : State) :
    memRead (append v s) s.rawlen.toNat = v % cntModulus s.cfg := by
  simp [memRead]

/-- An Append leaves every other entry. -/
theorem memRead_append_other (v : Nat) {s : State} {i : Nat} (h : i ≠ s.rawlen.toNat) :
    memRead (append v s) i = memRead s i :=
  memRead_congr rfl (Memory.read?_write_other _ _ _ _ h)

/-- Settles O20: below 255 the 8-bit length does not wrap, and the entries are those of the two lemmas on Append. -/
theorem anAppendedEntryReadsBack : Obligations.AnAppendedEntryReadsBack := by
  intro s v h
  refine ⟨?_, memRead_append_same v s, fun i hi => memRead_append_other v hi⟩
  rw [append_rawlen]
  bv_omega

/-! ### What a TICK writes of the buffer (40_sampler.md R100) -/

/-- The three arms of TICK that append, the overflow override and the gap test included (40_sampler.md R100, R102). -/
def TickAppends (level : Level) (s : State) : Prop :=
  s.rawlen.toNat < s.cfg.rawBuf ∧
    ((s.st = .idle ∧ level = s.cfg.markLevel ∧ s.cfg.gapTicks ≤ nextCnt s) ∨
     (s.st = .timingMark ∧ level ≠ s.cfg.markLevel) ∨
     (s.st = .timingSpace ∧ level = s.cfg.markLevel))

/-- The entry that an appending TICK writes: the gap arm of Idle clears the length first. -/
def appendIndex (s : State) : Nat := if s.st = .idle then 0 else s.rawlen.toNat

/-- A TICK appends the incremented counter at `appendIndex`, or leaves the buffer. -/
theorem tickStep_buf (level : Level) (s : State) :
    (TickAppends level s ∧ (tickStep level s).buf = s.buf.write (appendIndex s) (nextCnt s)) ∨
    (¬TickAppends level s ∧ (tickStep level s).buf = s.buf) := by
  by_cases hb : s.rawlen.toNat < s.cfg.rawBuf
  · rw [tickStep_below level hb]
    cases hst : s.st with
    | idle =>
      by_cases hm : level = s.cfg.markLevel
      · by_cases hg : nextCnt s < s.cfg.gapTicks
        · exact .inr (by simp [TickAppends, samplerArm, idleArm, hst, isMark, hm, hg])
        · exact .inl (by simp [TickAppends, appendIndex, samplerArm, idleArm, hst, isMark, hm, hg, hb, Nat.le_of_not_lt hg])
      · exact .inr (by simp [TickAppends, samplerArm, idleArm, hst, isMark, hm])
    | timingMark =>
      by_cases hm : level = s.cfg.markLevel
      · exact .inr (by simp [TickAppends, samplerArm, timingMarkArm, hst, isMark, hm])
      · exact .inl (by simp [TickAppends, appendIndex, samplerArm, timingMarkArm, hst, isMark, hm, hb])
    | timingSpace =>
      by_cases hm : level = s.cfg.markLevel
      · exact .inl (by simp [TickAppends, appendIndex, samplerArm, timingSpaceArm, hst, isMark, hm, hb])
      · refine .inr ⟨by simp [TickAppends, hst, hm], ?_⟩
        by_cases hg : s.cfg.gapTicks < nextCnt s <;> simp [samplerArm, timingSpaceArm, isMark, hm, hg]
    | stopped =>
      refine .inr ⟨by simp [TickAppends, hst], ?_⟩
      by_cases hm : level = s.cfg.markLevel <;> simp [samplerArm, stoppedArm, isMark, hm]
  · rw [tickStep_over level (Nat.le_of_not_lt hb)]
    exact .inr ⟨fun h => hb h.1, rfl⟩

/-- The appended entry is a cell of the buffer. -/
theorem appendIndex_lt {level : Level} {s : State} (h : TickAppends level s) : appendIndex s < s.cfg.rawBuf := by
  obtain ⟨hb, -⟩ := h
  unfold appendIndex
  split <;> omega

/-- A TICK leaves every cell but the one it appends. -/
theorem tickStep_read?_other (level : Level) {s : State} {i : Nat} (h : TickAppends level s → i ≠ appendIndex s) :
    (tickStep level s).buf.read? i = s.buf.read? i := by
  rcases tickStep_buf level s with ⟨ha, hbuf⟩ | ⟨-, hbuf⟩
  · rw [hbuf, Memory.read?_write_other _ _ _ _ (h ha)]
  · rw [hbuf]

/-- Settles O12: a TICK writes st, cnt, rawlen and buf only, and of buf the appended cell only. -/
theorem tickLeavesEverythingElse : Obligations.TickLeavesEverythingElse := by
  intro s level n appends
  have hread {a : Nat} (h : TickAppends level s → a ≠ appendIndex s) : memRead (tickStep level s) a = memRead s a :=
    memRead_congr (tickStep_cfg level s) (tickStep_read?_other level h)
  refine ⟨tickStep level s, rfl, ?_, ?_, ?_, ?_, ?_, ?_, ?_, ?_, ?_, ?_, ?_, ?_, tickStep_cfg level s,
    fun _ a ha => hread fun _ => ha, fun hn a => hread fun ha => absurd ha hn⟩
  all_goals rw [tickStep_keeps]

/-! ### The capacity (40_sampler.md R102) -/

/-- A TICK keeps the length within RAWBUF. -/
theorem TickEffect.rawlen_le {s t : State} (he : TickEffect s t) (hc : s.cfg.Valid)
    (h : s.rawlen.toNat ≤ s.cfg.rawBuf) : t.rawlen.toNat ≤ s.cfg.rawBuf := by
  cases he with
  | counted | cleared | overrun | gapEnded => exact h
  | started _ hb => exact Nat.zero_lt_of_lt hb
  | markEnded _ hb | spaceEnded _ hb => exact (rawlen_succ_toNat hc hb).trans_le hb

/-- Settles O18, by induction on the ticks: each keeps the length within RAWBUF and appends below it. -/
theorem ticksNeverWriteBeyondCapacity : Obligations.TicksNeverWriteBeyondCapacity := by
  intro s levels hc h
  induction levels generalizing s with
  | nil => exact ⟨h, fun _ _ => rfl⟩
  | cons level levels ih =>
    have hcfg : (tickStep level s).cfg = s.cfg := tickStep_cfg level s
    have htail := ih (tickStep level s) (hcfg ▸ hc) (hcfg ▸ (tickStep_effect level s).rawlen_le hc h)
    rw [hcfg] at htail
    obtain ⟨hlen, hcells⟩ := htail
    refine ⟨hlen, fun i hi => (hcells i hi).trans (tickStep_read?_other level fun ha => ?_)⟩
    exact ((appendIndex_lt ha).trans_le hi).ne'

/-! ### A stopped capture (20_memory.md R74) -/

/-- While Stopped a TICK writes the counter only, below capacity and at it (40_sampler.md R102, R107). -/
theorem tickStep_stopped {s : State} (level : Level) (h : s.st = .stopped) :
    ∃ n, tickStep level s = { s with cnt := n } := by
  generalize ht : tickStep level s = t
  have he : TickEffect s t := ht ▸ tickStep_effect level s
  cases he with
  | counted | cleared => exact ⟨_, rfl⟩
  | overrun _ n => exact ⟨n, by rw [← h]⟩
  | gapEnded hst | started hst | markEnded hst | spaceEnded hst => cases hst.symm.trans h

/-- So does any sequence of TICKs. -/
theorem feed_stopped {s : State} (levels : List Level) (h : s.st = .stopped) :
    ∃ n, feed levels s = { s with cnt := n } := by
  induction levels generalizing s with
  | nil => exact ⟨s.cnt, rfl⟩
  | cons level levels ih =>
    obtain ⟨n, hn⟩ := tickStep_stopped level h
    rw [feed_cons, hn]
    exact ih (s := { s with cnt := n }) h

/-- A TRY_DECODE of a stopped capture answers its decode (42_decoder.md R150). -/
theorem execTryDecode_stopped {s : State} (h : s.st = .stopped) :
    execTryDecode s = .next (respondDecode s (decodeCapture s.cfg s.rawlen.toNat (memRead s))) :=
  congrArg Host.Outcome.next (if_pos h)

/-- Settles O19: the TICKs write the counter, and the decode does not read it. -/
theorem aStoppedCaptureIsStable : Obligations.AStoppedCaptureIsStable := by
  intro s levels h
  obtain ⟨n, hn⟩ := feed_stopped levels h
  rw [hn]
  exact ⟨h, rfl, rfl, _, _, execTryDecode_stopped h, execTryDecode_stopped (s := { s with cnt := n }) h,
    respondDecode_congr (s := s) (s' := { s with cnt := n }) rfl _⟩

/-! ### A decode reads below rawlen only (20_memory.md R67) -/

/-- The repeat shape reads entries 2 and 3 of exactly 4 (42_decoder.md R153). -/
theorem isRepeatShape_congr {c : Config} {rawlen : Nat} {b b' : Nat → Nat} (h : ∀ i, i < rawlen → b' i = b i) :
    isRepeatShape c rawlen b' = isRepeatShape c rawlen b := by
  by_cases hlen : rawlen = 4
  · unfold isRepeatShape
    rw [h 2 (by omega), h 3 (by omega)]
  · simp [isRepeatShape, hlen]

/-- Each check of the decode comes after one that the entry it reads is below rawlen (42_decoder.md R150, R162). -/
theorem decodeCapture_congr {c : Config} {rawlen : Nat} {b b' : Nat → Nat} (h : ∀ i, i < rawlen → b' i = b i) :
    decodeCapture c rawlen b' = decodeCapture c rawlen b := by
  unfold decodeCapture
  rw [isRepeatShape_congr h]
  by_cases hshort : rawlen < 2
  · rw [if_pos hshort, if_pos hshort]
  rw [h 1 (by omega)]
  by_cases hfew : rawlen < 2 * c.necBits + 4
  · rw [if_pos hfew, if_pos hfew]
  · rw [h 2 (by omega), decodeBits_congr c.necBits 0 0 fun k _ hk => h k (by omega)]

/-- The response of a decode leaves the buffer and does not read it (42_decoder.md R158). -/
theorem respondDecode_withBuf (s : State) (m : Memory) (r : Except InvalidCause Decoded) :
    respondDecode { s with buf := m } r = { respondDecode s r with buf := m } := by
  rcases r with _ | _ | _ <;> rfl

/-- Another buffer that agrees below rawlen reads alike there. -/
theorem memRead_withBuf {s : State} {m : Memory} (h : ∀ i, i < s.rawlen.toNat → m.read? i = s.buf.read? i) (i : Nat)
    (hi : i < s.rawlen.toNat) : memRead { s with buf := m } i = memRead s i :=
  memRead_congr rfl (h i hi)

/-- Settles O34: a capture that is not stopped is not read, and a stopped one is read below rawlen. -/
theorem decodeNeverReadsPastTheLength : Obligations.DecodeNeverReadsPastTheLength := by
  intro s m h
  by_cases hst : s.st = .stopped
  · refine ⟨_, _, execTryDecode_stopped hst, execTryDecode_stopped (s := { s with buf := m }) hst, ?_⟩
    rw [respondDecode_withBuf]
    exact congrArg (fun r => { respondDecode s r with buf := m }) (decodeCapture_congr (memRead_withBuf h))
  · exact ⟨raise .notReady s, _, congrArg Host.Outcome.next (if_neg hst), congrArg Host.Outcome.next (if_neg hst), rfl⟩

/-! ### Host reads see no stale entry (20_memory.md R67, R71) -/

/-- An entry's word is CNT_W bits wide, from rawlen up too (10_state.md R48). -/
theorem bufWord_lt (i : Nat) (s : State) : (bufWord i s).1.toNat < cntModulus s.cfg := by
  have hpos : 0 < cntModulus s.cfg := Nat.two_pow_pos _
  unfold bufWord
  split
  · exact (Nat.mod_le ..).trans_lt (memRead_lt s i)
  · exact (Nat.mod_le ..).trans_lt (Nat.mod_lt _ hpos)

/-- From rawlen up the word is a free value, and below it the entry. -/
theorem bufWord_withBuf {s : State} {m : Memory} (h : ∀ i, i < s.rawlen.toNat → m.read? i = s.buf.read? i) (i : Nat) :
    bufWord i { s with buf := m } = ((bufWord i s).1, { (bufWord i s).2 with buf := m }) := by
  by_cases hi : i < s.rawlen.toNat
  · rw [bufWord_below hi, bufWord_below (s := { s with buf := m }) hi, memRead_withBuf h i hi]
  · simp [bufWord, hi]

/-- Only the buffer window reads the buffer (10_state.md R42). -/
theorem readRegister_withBuf {s : State} {m : Memory} (h : ∀ i, i < s.rawlen.toNat → m.read? i = s.buf.read? i)
    (a : RegAddr) :
    readRegister a { s with buf := m } = ((readRegister a s).1, { (readRegister a s).2 with buf := m }) := by
  unfold readRegister
  split
  case h_6 =>
    cases bufIndex? s.cfg a with
    | none => rfl
    | some i => exact bufWord_withBuf h i
  all_goals rfl

theorem hostRead_withBuf {s : State} {m : Memory} (h : ∀ i, i < s.rawlen.toNat → m.read? i = s.buf.read? i)
    (a : RegAddr) : hostRead a { s with buf := m } = { hostRead a s with buf := m } := by
  rw [hostRead, readRegister_withBuf h a]
  rfl

/-- A read of the buffer window answers CNT_W bits. -/
theorem hostRead_window_lt {a : RegAddr} {i : Nat} {s : State} (ha : a.toNat = 0x100 + i) (hi : i < s.cfg.rawBuf) :
    (hostRead a s).rdata.toNat < cntModulus s.cfg := by
  have hword : (hostRead a s).rdata = (bufWord i s).1 := congrArg Prod.fst (readRegister_window ha hi)
  rw [hword]
  exact bufWord_lt i s

/-- Settles O48: the read at the front is taken (`step_read`), keeps everything but rdata and draws (`hostRead_keeps`), and
commutes with a change of the stale cells. -/
theorem staleEntriesAreNeverReadAsKnown : Obligations.StaleEntriesAreNeverReadAsKnown := by
  intro s a rest m _ hin h
  refine ⟨_, step_read hin, ?_, hostRead_keeps a _, fun i ha hi => ?_⟩
  · rw [step_read (s := { s with buf := m }) hin]
    exact congrArg Host.Outcome.next (hostRead_withBuf (s := { s with inputs := rest }) h a)
  · exact hostRead_window_lt (s := { s with inputs := rest }) ha hi

/-! ### The step that runs a port word (20_memory.md R72, 30_encoding.md R90) -/

/-- An event word is always taken, and a command word when busy is 0. -/
theorem nextInput_word {s : State} {p : PortWord} (h : s.busy = false ∨ ∃ e, p = .event e) (rest : List Input) :
    nextInput (!s.busy) (.word p :: rest) = some (.word p, rest) := by
  rcases h with hb | ⟨e, rfl⟩
  · rw [hb]
    exact nextInput_of_ready
  · exact nextInput_of_not_command rfl

/-- A taken word that is an operation is run. -/
theorem step_of_decode_ok {s : State} {p : PortWord} {rest : List Input} {i : Instr}
    (h : nextInput (!s.busy) s.inputs = some (.word p, rest)) (hd : decode p = .ok i) :
    step s = exec i { s with inputs := rest } := by
  unfold step
  rw [cmdReady_eq, h]
  simp [hd]

/-- A taken word that is no operation is dropped (30_encoding.md R89). -/
theorem step_of_decode_error {s : State} {p : PortWord} {rest : List Input}
    (h : nextInput (!s.busy) s.inputs = some (.word p, rest)) (hd : decode p = .error .noStrobe) :
    step s = .next { s with inputs := rest } := by
  unfold step
  rw [cmdReady_eq, h]
  simp [hd]

/-- An event word without its strobe bit is no operation (30_encoding.md R89). -/
theorem decode_event_noStrobe {e : EventWord} (h : e.getLsbD 1 = false) : decode (.event e) = .error .noStrobe :=
  if_neg (Bool.eq_false_iff.1 h)

/-- Settles O4: the word at the front is taken (`nextInput_word`), and run or dropped by what it decodes to. -/
theorem stepRunsTheDecodedOperation : Obligations.StepRunsTheDecodedOperation := by
  refine ⟨fun s p rest i hin hp hd _ => ?_, fun s e rest hin he => ?_, fun s hin => ?_⟩
  · exact step_of_decode_ok (hin ▸ nextInput_word hp rest) hd
  · exact step_of_decode_error (hin ▸ nextInput_word (.inr ⟨e, rfl⟩) rest) (decode_event_noStrobe he)
  · exact step_of_nextInput_none (by rw [hin]; rfl)

end Sys2Proof.Machine
end

section
/-! SUPPORT. The encoding (30_encoding.md): decoding and encoding agree in both directions, a busy port passes waiting commands
by, and the words that are ILLEGAL write the response only. -/

namespace Sys2Proof

/-! ### Decoding an encoded operation (30_encoding.md R81 to R89) -/

theorem decode_command {w : CommandWord} {i : Instr} (h : decodeCommand w = i) : decode (.command w) = .ok i :=
  congrArg Except.ok h

/-- A word of a defined op with a reserved bit set reads as itself (30_encoding.md R87). -/
theorem decodeCommand_of_setsReservedBit {w : CommandWord} (h : SetsReservedBit w) :
    decodeCommand w = .reservedBits w := by
  rcases h with ⟨hop | hop | hop, hrest⟩ | ⟨hop, hreserved⟩ | ⟨hop, hreserved⟩
  · exact (decodeCommand_op1 hop).trans (if_neg hrest)
  · exact (decodeCommand_op2 hop).trans (if_neg hrest)
  · exact (decodeCommand_op3 hop).trans (if_neg hrest)
  · exact (decodeCommand_op4 hop).trans (if_neg hreserved)
  · refine (decodeCommand_op5 hop).trans (if_neg ?_)
    rintro ⟨hlow, hhigh⟩
    exact hreserved.elim (· hlow) (· hhigh)

/-- A word whose bits above the op are 0 carries the operation of its format (30_encoding.md R85). -/
theorem decodePlain_opWord (i : Instr) (op : BitVec 3) : decodePlain i (0#61 ++ op) = i := if_pos (opWord_rest 0#61 op)

/-- The TRANSMIT format reads its operands back (30_encoding.md R83). -/
theorem decodeTransmit_transmitWord (value : BitVec 32) (nbits : BitVec 6) (khz : BitVec 8) :
    decodeTransmit (value ++ 0#15 ++ khz ++ nbits ++ 0b100#3) = .transmit value nbits khz := by
  refine (if_pos (transmitWord_reserved ..)).trans ?_
  rw [transmitWord_value, transmitWord_nbits, transmitWord_khz]

/-- The MATCH format reads its operands back (30_encoding.md R84). -/
theorem decodeMatch_matchWord (kind : Bool) (ticks us : BitVec 16) :
    decodeMatch (0#16 ++ us ++ ticks ++ 0#12 ++ BitVec.ofBool kind ++ 0b101#3) = .matchWindow kind ticks us := by
  refine (if_pos ⟨matchWord_reservedLow .., matchWord_reservedHigh ..⟩).trans ?_
  rw [matchWord_kind, matchWord_ticks, matchWord_us]

/-- Settles O2: one case for each constructor, by its row of the opcode map and the fields of its format. -/
theorem decodingAnEncodedOperationGivesItBack : Obligations.DecodingAnEncodedOperationGivesItBack := by
  intro i hwf
  cases i with
  | tick level => cases level <;> rfl
  | startReceiving => exact decode_command ((decodeCommand_op1 (opWord_op ..)).trans (decodePlain_opWord ..))
  | resetCapture => exact decode_command ((decodeCommand_op2 (opWord_op ..)).trans (decodePlain_opWord ..))
  | tryDecode => exact decode_command ((decodeCommand_op3 (opWord_op ..)).trans (decodePlain_opWord ..))
  | transmit value nbits khz =>
    exact decode_command ((decodeCommand_op4 (transmitWord_op ..)).trans (decodeTransmit_transmitWord ..))
  | matchWindow kind ticks us =>
    exact decode_command ((decodeCommand_op5 (matchWord_op ..)).trans (decodeMatch_matchWord ..))
  | reservedOp0 rest =>
    exact decode_command ((decodeCommand_op0 (opWord_op ..)).trans (congrArg Instr.reservedOp0 (opWord_rest ..)))
  | reservedOp6 rest =>
    exact decode_command ((decodeCommand_op6 (opWord_op ..)).trans (congrArg Instr.reservedOp6 (opWord_rest ..)))
  | reservedOp7 rest =>
    exact decode_command ((decodeCommand_op7 (opWord_op ..)).trans (congrArg Instr.reservedOp7 (opWord_rest ..)))
  | reservedBits w => exact decode_command (decodeCommand_of_setsReservedBit (of_decide_eq_true hwf))

/-! ### Encoding a decoded word (30_encoding.md R86, R87, R89) -/

/-- The operation is the reading of the port word. -/
structure IsReadingOf (i : Instr) (p : PortWord) : Prop where
  wellFormed : i.wellFormed = true
  encode_eq : encode i = p

theorem reservedBits_isReadingOf {w : CommandWord} (h : SetsReservedBit w) :
    IsReadingOf (.reservedBits w) (.command w) := ⟨decide_eq_true h, rfl⟩

/-- A word of an op is the op with the word's rest before it. -/
theorem opWord_eq {w : CommandWord} {op : BitVec 3} (hop : w.extractLsb' 0 3 = op) : w.extractLsb' 3 61 ++ op = w := by
  rw [← hop, rest_append_op]

theorem decodePlain_isReadingOf {i : Instr} {w : CommandWord} {op : BitVec 3} (hwf : i.wellFormed = true)
    (hi : encode i = .command (0#61 ++ op)) (hop : w.extractLsb' 0 3 = op) (hdefined : op = 1 ∨ op = 2 ∨ op = 3) :
    IsReadingOf (decodePlain i w) (.command w) := by
  unfold decodePlain
  split
  case isTrue hrest =>
    have hword : 0#61 ++ op = w := (congrArg (· ++ op) hrest).symm.trans (opWord_eq hop)
    exact ⟨hwf, hi.trans (congrArg PortWord.command hword)⟩
  case isFalse hrest => exact reservedBits_isReadingOf (.inl ⟨hop ▸ hdefined, hrest⟩)

/-- A TRANSMIT word without reserved bits is its fields put together (30_encoding.md R83). -/
theorem transmitWord_eq {w : CommandWord} (hop : w.extractLsb' 0 3 = 0b100#3) (hreserved : w.extractLsb' 17 15 = 0#15) :
    w.extractLsb' 32 32 ++ 0#15 ++ w.extractLsb' 9 8 ++ w.extractLsb' 3 6 ++ 0b100#3 = w := by
  rw [← hop, ← hreserved]
  simp (disch := rfl) only [BitVec.extractLsb'_append_extractLsb'_eq_extractLsb']
  exact BitVec.extractLsb'_eq_self

theorem decodeTransmit_isReadingOf {w : CommandWord} (hop : w.extractLsb' 0 3 = 4) :
    IsReadingOf (decodeTransmit w) (.command w) := by
  unfold decodeTransmit
  split
  case isTrue hreserved => exact ⟨rfl, congrArg PortWord.command (transmitWord_eq hop hreserved)⟩
  case isFalse hreserved => exact reservedBits_isReadingOf (.inr (.inl ⟨hop, hreserved⟩))

/-- A bit is a field of one bit. -/
theorem ofBool_getLsbD (w : CommandWord) (k : Nat) : BitVec.ofBool (w.getLsbD k) = w.extractLsb' k 1 := by
  ext j hj
  obtain rfl : j = 0 := by omega
  simp

/-- A MATCH word without reserved bits is its fields put together (30_encoding.md R84). -/
theorem matchWord_eq {w : CommandWord} (hop : w.extractLsb' 0 3 = 0b101#3) (hlow : w.extractLsb' 4 12 = 0#12)
    (hhigh : w.extractLsb' 48 16 = 0#16) :
    0#16 ++ w.extractLsb' 32 16 ++ w.extractLsb' 16 16 ++ 0#12 ++ BitVec.ofBool (w.getLsbD 3) ++ 0b101#3 = w := by
  rw [← hop, ← hlow, ← hhigh, ofBool_getLsbD]
  simp (disch := rfl) only [BitVec.extractLsb'_append_extractLsb'_eq_extractLsb']
  exact BitVec.extractLsb'_eq_self

theorem decodeMatch_isReadingOf {w : CommandWord} (hop : w.extractLsb' 0 3 = 5) :
    IsReadingOf (decodeMatch w) (.command w) := by
  unfold decodeMatch
  split
  case isTrue hreserved =>
    obtain ⟨hlow, hhigh⟩ := hreserved
    exact ⟨rfl, congrArg PortWord.command (matchWord_eq hop hlow hhigh)⟩
  case isFalse hreserved => exact reservedBits_isReadingOf (.inr (.inr ⟨hop, not_and_or.1 hreserved⟩))

/-- What a command word decodes to is its reading, whatever its op. -/
theorem decodeCommand_isReadingOf (w : CommandWord) : IsReadingOf (decodeCommand w) (.command w) := by
  rcases op_cases (w.extractLsb' 0 3) with hop | hop | hop | hop | hop | hop | hop | hop
  · exact decodeCommand_op0 hop ▸ ⟨rfl, congrArg PortWord.command (opWord_eq hop)⟩
  · exact decodeCommand_op1 hop ▸ decodePlain_isReadingOf rfl rfl hop (by decide)
  · exact decodeCommand_op2 hop ▸ decodePlain_isReadingOf rfl rfl hop (by decide)
  · exact decodeCommand_op3 hop ▸ decodePlain_isReadingOf rfl rfl hop (by decide)
  · exact decodeCommand_op4 hop ▸ decodeTransmit_isReadingOf hop
  · exact decodeCommand_op5 hop ▸ decodeMatch_isReadingOf hop
  · exact decodeCommand_op6 hop ▸ ⟨rfl, congrArg PortWord.command (opWord_eq hop)⟩
  · exact decodeCommand_op7 hop ▸ ⟨rfl, congrArg PortWord.command (opWord_eq hop)⟩

/-- An event word with its strobe bit set is a TICK (30_encoding.md R89). -/
theorem decode_event_strobe {e : EventWord} (h : e.getLsbD 1 = true) : decode (.event e) = .ok (.tick (e.getLsbD 0)) :=
  if_pos h

/-- An event word is the strobe bit and the level. -/
theorem encode_tick_of_strobe {e : EventWord} (h : e.getLsbD 1 = true) : encode (.tick (e.getLsbD 0)) = .event e := by
  revert e
  decide

/-- The event words without a strobe. -/
theorem strobe_eq_false {e : EventWord} : e.getLsbD 1 = false ↔ e = 0b00#2 ∨ e = 0b01#2 := by
  revert e
  decide

/-- Settles O3: a command word is always an operation (`decodeCommand_isReadingOf`), an event word by its strobe bit. -/
theorem everyPortWordHasOneMeaning : Obligations.EveryPortWordHasOneMeaning := by
  intro p
  cases p with
  | command w =>
    refine ⟨fun i hi => ?_, ⟨nofun, nofun⟩⟩
    cases hi
    obtain ⟨hwf, hencode⟩ := decodeCommand_isReadingOf w
    exact ⟨hwf, hencode⟩
  | event e =>
    simp only [PortWord.event.injEq, ← strobe_eq_false]
    cases he : e.getLsbD 1 with
    | true =>
      rw [decode_event_strobe he]
      refine ⟨fun i hi => ?_, ⟨nofun, nofun⟩⟩
      cases hi
      exact ⟨rfl, encode_tick_of_strobe he⟩
    | false =>
      rw [Machine.decode_event_noStrobe he]
      exact ⟨nofun, fun _ => rfl, fun _ => ⟨_, rfl⟩⟩

/-! ### Written words -/

/-- Settles O1: fourteen fixed words, read by the decoder. -/
theorem writtenWordsDecodeAsTheTableSays : Obligations.WrittenWordsDecodeAsTheTableSays := by
  unfold Obligations.WrittenWordsDecodeAsTheTableSays
  decide

end Sys2Proof

namespace Sys2Proof.Machine

/-! ### A busy port (30_encoding.md R90, R91) -/

/-- A port that is not ready passes the waiting commands by, however many, and leaves them before the rest in their order
(40_sampler.md R111). -/
theorem nextInput_behind_commands (ws : List CommandWord) {i : Input} (hi : i.isCommand = false) (rest : List Input) :
    nextInput false (ws.map (fun w => Input.word (.command w)) ++ i :: rest) =
      some (i, ws.map (fun w => Input.word (.command w)) ++ rest) := by
  induction ws with
  | nil => exact nextInput_of_not_command hi
  | cons w ws ih => simp [nextInput, Input.isCommand, ih]

/-- Settles O6: nothing is taken of commands alone (`nextInput_commands`), and the strobe behind them is. -/
theorem busyPortLeavesCommandsWaiting : Obligations.BusyPortLeavesCommandsWaiting := by
  intro s ws e rest hb
  refine ⟨fun hin => step_of_nextInput_none ?_, fun hin he => step_of_decode_ok ?_ (decode_event_strobe he)⟩
  · rw [hb, hin]
    exact nextInput_commands ws
  · rw [hb, hin]
    exact nextInput_behind_commands ws rfl rest

/-! ### ILLEGAL operations (30_encoding.md R86 to R88) -/

/-- Settles O37: operands outside the legal ones take the second way of a TRANSMIT (`execTransmit_cases`). -/
theorem illegalTransmitEmitsNothing : Obligations.IllegalTransmitEmitsNothing := by
  intro s value nbits khz h
  rcases execTransmit_cases value nbits khz s with ⟨⟨hnbits, hkhz⟩, -⟩ | ⟨-, hexec⟩
  · exact absurd h (not_or.2 ⟨Nat.not_lt.2 hnbits, hkhz⟩)
  · exact hexec

/-- Settles O42: each reserved arm raises ILLEGAL, which writes the response fields only. -/
theorem reservedOperationsAreIllegal : Obligations.ReservedOperationsAreIllegal := by
  intro s rest w t
  exact ⟨rfl, rfl, rfl, rfl⟩

end Sys2Proof.Machine
end

section
/-! SUPPORT. The SAMPLER (40_sampler.md): the rows of its transition table, runs of equal samples, its independence of the rest
of the state, and the re-arm commands. -/

namespace Sys2Proof.Machine

/-! ### The rows of the transition table below capacity (40_sampler.md R103) -/

section Rows

variable {s : State} {level : Level} (hb : s.rawlen.toNat < s.cfg.rawBuf)
include hb

/-- A space in Idle counts. -/
theorem tickStep_idle_space (hst : s.st = .idle) (hl : level = !s.cfg.markLevel) :
    tickStep level s = { s with cnt := nextCnt s } := by
  simp [tickStep_space hb hl, samplerArm, hst, idleArm]

/-- A mark in Idle before GAP_TICKS is noise (R104). -/
theorem tickStep_idle_noise (hst : s.st = .idle) (hl : level = s.cfg.markLevel) (hg : nextCnt s < s.cfg.gapTicks) :
    tickStep level s = { s with cnt := 0 } := by
  simp [tickStep_mark hb hl, samplerArm, hst, idleArm, hg, clearCnt]

/-- A mark in Idle from GAP_TICKS up starts a capture with the gap as entry 0 (R104). -/
theorem tickStep_idle_gap (hst : s.st = .idle) (hl : level = s.cfg.markLevel) (hg : s.cfg.gapTicks ≤ nextCnt s) :
    tickStep level s = { s with cnt := 0, st := .timingMark, rawlen := 1, buf := s.buf.write 0 (nextCnt s) } := by
  simp [tickStep_mark hb hl, samplerArm, hst, idleArm, Nat.not_lt.2 hg, clearLength, appendAndGo, append, memWrite, goTo, clearCnt]

/-- A mark in TimingMark counts (R109). -/
theorem tickStep_timingMark_mark (hst : s.st = .timingMark) (hl : level = s.cfg.markLevel) :
    tickStep level s = { s with cnt := nextCnt s } := by
  simp [tickStep_mark hb hl, samplerArm, hst, timingMarkArm]

/-- A space in TimingMark ends the mark (R106). -/
theorem tickStep_timingMark_space (hst : s.st = .timingMark) (hl : level = !s.cfg.markLevel) :
    tickStep level s =
      { s with cnt := 0, st := .timingSpace, rawlen := s.rawlen + 1, buf := s.buf.write s.rawlen.toNat (nextCnt s) } := by
  simp [tickStep_space hb hl, samplerArm, hst, timingMarkArm, appendAndGo, append, memWrite, goTo, clearCnt]

/-- A mark in TimingSpace ends the space (R106). -/
theorem tickStep_timingSpace_mark (hst : s.st = .timingSpace) (hl : level = s.cfg.markLevel) :
    tickStep level s =
      { s with cnt := 0, st := .timingMark, rawlen := s.rawlen + 1, buf := s.buf.write s.rawlen.toNat (nextCnt s) } := by
  simp [tickStep_mark hb hl, samplerArm, hst, timingSpaceArm, appendAndGo, append, memWrite, goTo, clearCnt]

/-- A space in TimingSpace up to GAP_TICKS counts (R105). -/
theorem tickStep_timingSpace_space (hst : s.st = .timingSpace) (hl : level = !s.cfg.markLevel)
    (hg : nextCnt s ≤ s.cfg.gapTicks) : tickStep level s = { s with cnt := nextCnt s } := by
  simp [tickStep_space hb hl, samplerArm, hst, timingSpaceArm, Nat.not_lt.2 hg]

/-- A space in TimingSpace past GAP_TICKS is the trailing gap (R105). -/
theorem tickStep_timingSpace_gap (hst : s.st = .timingSpace) (hl : level = !s.cfg.markLevel)
    (hg : s.cfg.gapTicks < nextCnt s) : tickStep level s = { s with cnt := nextCnt s, st := .stopped } := by
  simp [tickStep_space hb hl, samplerArm, hst, timingSpaceArm, hg, goTo]

/-- A mark in Stopped resets the counter (R107). -/
theorem tickStep_stopped_mark (hst : s.st = .stopped) (hl : level = s.cfg.markLevel) :
    tickStep level s = { s with cnt := 0 } := by
  simp [tickStep_mark hb hl, samplerArm, hst, stoppedArm, clearCnt]

/-- A space in Stopped counts (R107). -/
theorem tickStep_stopped_space (hst : s.st = .stopped) (hl : level = !s.cfg.markLevel) :
    tickStep level s = { s with cnt := nextCnt s } := by
  simp [tickStep_space hb hl, samplerArm, hst, stoppedArm]

end Rows

/-- Settles O11: the override is `tickStep_over`, and each row below capacity has its lemma. -/
theorem tickFollowsTheTransitionTable : Obligations.TickFollowsTheTransitionTable := by
  intro s level n mark ovr
  have hspace (h : ¬mark) : level = !s.cfg.markLevel := Bool.eq_not.2 h
  have hbelow (h : ¬ovr) : s.rawlen.toNat < s.cfg.rawBuf := Nat.lt_of_not_le h
  exact ⟨tickStep level s, rfl,
    fun ho hm => (tickStep_over level ho).trans (by rw [if_pos hm]),
    fun ho hm => (tickStep_over level ho).trans (by rw [if_neg hm]; rfl),
    fun ho hst hm => tickStep_idle_space (hbelow ho) hst (hspace hm),
    fun ho hst hm hg => tickStep_idle_noise (hbelow ho) hst hm hg,
    fun ho hst hm hg => tickStep_idle_gap (hbelow ho) hst hm hg,
    fun ho hst hm => tickStep_timingMark_mark (hbelow ho) hst hm,
    fun ho hst hm => tickStep_timingMark_space (hbelow ho) hst (hspace hm),
    fun ho hst hm => tickStep_timingSpace_mark (hbelow ho) hst hm,
    fun ho hst hm hg => tickStep_timingSpace_space (hbelow ho) hst (hspace hm) hg,
    fun ho hst hm hg => tickStep_timingSpace_gap (hbelow ho) hst (hspace hm) hg,
    fun ho hst hm => tickStep_stopped_mark (hbelow ho) hst hm,
    fun ho hst hm => tickStep_stopped_space (hbelow ho) hst (hspace hm)⟩

/-! ### The SAMPLER depends on its own state only (40_sampler.md R112) -/

/-- `t` with the SAMPLER of `s`: the parameters, st, cnt, rawlen and buf. -/
def withSampler (t s : State) : State :=
  { t with cfg := s.cfg, st := s.st, cnt := s.cnt, rawlen := s.rawlen, buf := s.buf }

/-- The arms of TICK see and write the SAMPLER only. -/
theorem samplerArm_withSampler (m : Bool) (t s : State) :
    samplerArm m (withSampler t s) = withSampler t (samplerArm m s) := by
  have hst : (withSampler t s).st = s.st := rfl
  unfold samplerArm
  rw [hst]
  cases s.st with
  | idle => simp only [idleArm, apply_ite (withSampler t)]; rfl
  | timingMark => simp only [timingMarkArm, apply_ite (withSampler t)]; rfl
  | timingSpace => simp only [timingSpaceArm, apply_ite (withSampler t)]; rfl
  | stopped => simp only [stoppedArm, apply_ite (withSampler t)]; rfl

/-- A TICK sees and writes the SAMPLER only. -/
theorem tickStep_withSampler (level : Level) (t s : State) :
    tickStep level (withSampler t s) = withSampler t (tickStep level s) := by
  by_cases hb : s.rawlen.toNat < s.cfg.rawBuf
  · rw [tickStep_below level hb, ← samplerArm_withSampler]
    exact tickStep_below (s := withSampler t s) level hb
  · rw [tickStep_over level (Nat.le_of_not_lt hb)]
    exact tickStep_over (s := withSampler t s) level (Nat.le_of_not_lt hb)

/-- So does any sequence of TICKs. -/
theorem feed_withSampler (levels : List Level) (t s : State) :
    feed levels (withSampler t s) = withSampler t (feed levels s) := by
  induction levels generalizing s with
  | nil => rfl
  | cons level levels ih => rw [feed_cons, feed_cons, tickStep_withSampler, ih]

/-- A state that agrees with `s` on the SAMPLER is itself with the SAMPLER of `s`. -/
theorem SameSampler.eq_withSampler {s t : State} (h : SameSampler s t) : t = withSampler t s := by
  unfold withSampler
  rw [← h.cfg, ← h.st, ← h.cnt, ← h.rawlen, ← h.buf]

/-- Settles O13: TICKs commute with putting the SAMPLER of one state into the other. -/
theorem samplerDependsOnlyOnItsOwnState : Obligations.SamplerDependsOnlyOnItsOwnState := by
  intro s s' levels hcfg hst hcnt hrawlen hbuf
  have hsame : SameSampler s s' := ⟨hcfg, hst, hcnt, hrawlen, hbuf⟩
  rw [hsame.eq_withSampler, feed_withSampler]
  exact ⟨rfl, rfl, rfl, rfl⟩

/-! ### Runs of equal samples (40_sampler.md R106, R108) -/

/-- `s` with the counter `k` samples on (R108). -/
def countedOn (s : State) (k : Nat) : State := { s with cnt := (s.cnt + k) % cntModulus s.cfg }

theorem nextCnt_countedOn (s : State) (k : Nat) : nextCnt (countedOn s k) = (s.cnt + (k + 1)) % cntModulus s.cfg :=
  Nat.mod_add_mod ..

/-- A run of samples that only count adds its length to the counter. -/
theorem feed_replicate_of_counts {s : State} {level : Level} {n : Nat} (hcnt : s.cnt < cntModulus s.cfg)
    (h : ∀ k < n, tickStep level (countedOn s k) = { countedOn s k with cnt := nextCnt (countedOn s k) }) :
    feed (List.replicate n level) s = countedOn s n := by
  induction n with
  | zero => rw [countedOn, Nat.add_zero, Nat.mod_eq_of_lt hcnt]; rfl
  | succ n ih =>
    rw [List.replicate_succ', feed_append, ih fun k hk => h k (Nat.lt_succ_of_lt hk)]
    refine (h n (Nat.lt_succ_self n)).trans ?_
    rw [nextCnt_countedOn]
    rfl

section Runs

variable {s : State} (hb : s.rawlen.toNat < s.cfg.rawBuf) (hcnt : s.cnt < cntModulus s.cfg)
include hb hcnt

/-- Spaces in Idle count, with no limit (R104). -/
theorem feed_spaceTicks_idle (hst : s.st = .idle) (n : Nat) : feed (spaceTicks s.cfg n) s = countedOn s n :=
  feed_replicate_of_counts hcnt fun k _ => tickStep_idle_space (s := countedOn s k) hb hst rfl

/-- Marks in TimingMark count, with no limit (R109). -/
theorem feed_markTicks_timingMark (hst : s.st = .timingMark) (n : Nat) :
    feed (markTicks s.cfg n) s = countedOn s n :=
  feed_replicate_of_counts hcnt fun k _ => tickStep_timingMark_mark (s := countedOn s k) hb hst rfl

/-- Spaces in TimingSpace count up to GAP_TICKS (R105). -/
theorem feed_spaceTicks_timingSpace (hst : s.st = .timingSpace) {n : Nat} (hn : s.cnt + n ≤ s.cfg.gapTicks) :
    feed (spaceTicks s.cfg n) s = countedOn s n := by
  refine feed_replicate_of_counts hcnt fun k hk => tickStep_timingSpace_space (s := countedOn s k) hb hst rfl ?_
  calc nextCnt (countedOn s k)
    _ = (s.cnt + (k + 1)) % cntModulus s.cfg := nextCnt_countedOn s k
    _ ≤ s.cnt + (k + 1) := Nat.mod_le ..
    _ ≤ s.cfg.gapTicks := by omega

end Runs

/-- Settles O17: the run of marks in TimingMark. -/
theorem aMarkHasNoTimeout : Obligations.AMarkHasNoTimeout :=
  fun _ n hst hb hcnt => feed_markTicks_timingMark hb hcnt hst n

/-- A counter just reset has its width. -/
theorem cnt_lt_of_eq_zero {s : State} (h : s.cnt = 0) : s.cnt < cntModulus s.cfg :=
  h ▸ Nat.two_pow_pos s.cfg.cntW

/-- From a counter just reset the count is the length of the run, modulo 2^CNT_W. -/
theorem countedOn_of_cnt_eq_zero {s : State} (h : s.cnt = 0) (k : Nat) :
    countedOn s k = { s with cnt := k % cntModulus s.cfg } := by
  rw [countedOn, h, Nat.zero_add]

/-- From a counter just reset the sample behind the run counts one more. -/
theorem nextCnt_countedOn_of_cnt_eq_zero {s : State} (h : s.cnt = 0) (k : Nat) :
    nextCnt (countedOn s k) = (k + 1) % cntModulus s.cfg := by
  rw [nextCnt_countedOn, h, Nat.zero_add]

/-- GAP_TICKS + 1 fits the counter (00_scope.md R7). -/
theorem gapTicks_succ_lt_cntModulus {c : Config} (h : c.Valid) : c.gapTicks + 1 < cntModulus c := by
  obtain ⟨-, -, ⟨-, hgap⟩, -⟩ := h
  exact hgap

/-- An empty buffer is below capacity (00_scope.md R7). -/
theorem rawlen_lt_of_eq_zero {s : State} (hc : s.cfg.Valid) (h : s.rawlen = 0) : s.rawlen.toNat < s.cfg.rawBuf := by
  obtain ⟨-, ⟨hmin, -⟩, -⟩ := hc
  rw [h]
  exact Nat.zero_lt_of_lt hmin

/-- Settles O14: the spaces count, and the mark behind them is noise or the end of a gap by the count. -/
theorem aGapStartsACapture : Obligations.AGapStartsACapture := by
  intro s n hc hst hlen hcnt count
  have hb : s.rawlen.toNat < s.cfg.rawBuf := rawlen_lt_of_eq_zero hc hlen
  have hcount : nextCnt (countedOn s n) = count := nextCnt_countedOn_of_cnt_eq_zero hcnt n
  rw [feed_append, feed_spaceTicks_idle hb (cnt_lt_of_eq_zero hcnt) hst]
  by_cases hg : count < s.cfg.gapTicks
  · rw [if_pos hg]
    refine (tickStep_idle_noise (s := countedOn s n) hb hst rfl (hcount.trans_lt hg)).trans ?_
    rw [countedOn, ← hcnt]
  · rw [if_neg hg]
    refine (tickStep_idle_gap (s := countedOn s n) hb hst rfl (hcount ▸ Nat.le_of_not_lt hg)).trans ?_
    rw [hcount, countedOn, ← hcnt]

/-- Settles O15: the spaces up to GAP_TICKS count, and the next one is past the test of the trailing gap. -/
theorem theTrailingGapEndsACapture : Obligations.TheTrailingGapEndsACapture := by
  intro s hc hst hcnt hb
  have hgap : s.cfg.gapTicks + 1 < cntModulus s.cfg := gapTicks_succ_lt_cntModulus hc
  have hrun (k : Nat) (hk : k ≤ s.cfg.gapTicks) : feed (spaceTicks s.cfg k) s = countedOn s k :=
    feed_spaceTicks_timingSpace hb (cnt_lt_of_eq_zero hcnt) hst (by omega)
  have hnext : nextCnt (countedOn s s.cfg.gapTicks) = s.cfg.gapTicks + 1 := by
    rw [nextCnt_countedOn_of_cnt_eq_zero hcnt, Nat.mod_eq_of_lt hgap]
  refine ⟨fun k hk => ?_, ?_⟩
  · rw [hrun k hk, countedOn_of_cnt_eq_zero hcnt, Nat.mod_eq_of_lt (by omega)]
  · rw [feed_spaceTicks_succ, hrun _ (Nat.le_refl _)]
    refine (tickStep_timingSpace_gap (s := countedOn s s.cfg.gapTicks) hb hst rfl ?_).trans ?_
    · exact hnext ▸ Nat.lt_succ_self _
    · rw [hnext]
      rfl

/-- Settles O16: the samples behind the first count, and the first sample of the other level appends the count. -/
theorem anEntryIsTheSampleCountOfItsRun : Obligations.AnEntryIsTheSampleCountOfItsRun := by
  intro s k hc hcnt hb
  have hcount : nextCnt (countedOn s k) = (k + 1) % cntModulus s.cfg := nextCnt_countedOn_of_cnt_eq_zero hcnt k
  refine ⟨fun hst => ?_, fun hst hk => ?_⟩
  · rw [feed_append, feed_markTicks_timingMark hb (cnt_lt_of_eq_zero hcnt) hst]
    refine (tickStep_timingMark_space (s := countedOn s k) hb hst rfl).trans ?_
    rw [hcount, countedOn, ← hcnt]
    rfl
  · have hfits : (k + 1) % cntModulus s.cfg = k + 1 :=
      Nat.mod_eq_of_lt ((Nat.succ_le_succ hk).trans_lt (gapTicks_succ_lt_cntModulus hc))
    rw [feed_append, feed_spaceTicks_timingSpace hb (cnt_lt_of_eq_zero hcnt) hst (by omega)]
    refine (tickStep_timingSpace_mark (s := countedOn s k) hb hst rfl).trans ?_
    rw [hcount, hfits, countedOn, ← hcnt]

/-! ### The re-arm commands (40_sampler.md R115 to R117) -/

/-- Of the words of an op without operands, all but the op itself set a reserved bit (30_encoding.md R85, R87). -/
theorem setsReservedBit_of_ne_opWord {w : CommandWord} {op : BitVec 3} (hop : w.extractLsb' 0 3 = op)
    (hdefined : op = 1 ∨ op = 2 ∨ op = 3) (hne : w ≠ 0#61 ++ op) : SetsReservedBit w :=
  .inl ⟨hop ▸ hdefined, fun hrest => hne ((opWord_eq hop).symm.trans (congrArg (· ++ op) hrest))⟩

/-- Settles O21: both commands are `rearm`, their words decode to them, and every other word of their ops sets a reserved bit. -/
theorem rearmSetsIdleAndEmpty : Obligations.RearmSetsIdleAndEmpty := by
  intro s rearmed
  refine ⟨rfl, rfl, fun w rest hin hb => ⟨?_, fun hop hone htwo => ?_⟩⟩
  · rintro (rfl | rfl) <;> exact step_command hin hb
  · have hreserved : SetsReservedBit w := by
      rcases hop with hop | hop
      · exact setsReservedBit_of_ne_opWord hop (by decide) hone
      · exact setsReservedBit_of_ne_opWord hop (by decide) htwo
    rw [step_command hin hb, decodeCommand_of_setsReservedBit hreserved]
    rfl

end Sys2Proof.Machine
end

section
/-! SUPPORT. The MATCHER (41_matcher.md): the rounding of its quotients, what its two predicates compare, the MATCH command, and
the windows and the possible sample counts of the reference configuration. -/

namespace Sys2Proof.Machine

/-! ### The window bounds (41_matcher.md R130, R131) -/

theorem tickDenominator_pos {c : Config} (hc : c.Valid) : 0 < 100 * (c.tickUs : Int) :=
  Int.mul_pos (by decide) (Int.natCast_pos.mpr hc.1)

/-- The truncated quotient of a numerator that is not negative is its floor (00_scope.md R9). -/
theorem tdiv_rounds_down {n den : Int} (hn : 0 ≤ n) (hden : 0 < den) :
    0 ≤ n.tdiv den ∧ n.tdiv den * den ≤ n ∧ n < (n.tdiv den + 1) * den :=
  ⟨Int.tdiv_nonneg hn hden.le, by simpa [hn] using Int.tdiv_mul_le n hden.ne', Int.lt_tdiv_add_one_mul_self n hden⟩

/-- The truncated quotient of a numerator that is not positive is its ceiling (00_scope.md R9). -/
theorem tdiv_rounds_up {n den : Int} (hn : n ≤ 0) (hden : 0 < den) :
    n.tdiv den ≤ 0 ∧ n ≤ n.tdiv den * den ∧ (n.tdiv den - 1) * den < n := by
  have h := tdiv_rounds_down (Int.neg_nonneg_of_nonpos hn) hden
  rw [Int.neg_tdiv] at h
  obtain ⟨hsign, hle, hlt⟩ := h
  refine ⟨by omega, by linarith, by linarith⟩

/-- Settles O24: both bounds are truncated quotients of the corrected duration times a percentage that is not negative. -/
theorem windowBoundsRoundTowardZero : Obligations.WindowBoundsRoundTowardZero := by
  intro c d hc den lo hi
  have hden : 0 < den := tickDenominator_pos hc
  have hhi : hi = (d * (100 + c.tolPct)).tdiv den := Int.add_sub_cancel _ 1
  have hlow : (0 : Int) ≤ 100 - c.tolPct := by
    obtain ⟨-, -, -, -, htol, -⟩ := hc
    omega
  have hhigh : (0 : Int) ≤ 100 + c.tolPct := by omega
  rw [hhi]
  exact ⟨fun hd => tdiv_rounds_down (Int.mul_nonneg hd hlow) hden,
    fun hd => tdiv_rounds_up (Int.mul_nonpos_of_nonpos_of_nonneg hd hlow) hden,
    fun hd => tdiv_rounds_down (Int.mul_nonneg hd hhigh) hden,
    fun hd => tdiv_rounds_up (Int.mul_nonpos_of_nonpos_of_nonneg hd hhigh) hden⟩

/-- The window of a corrected duration that is not negative is not empty (41_matcher.md R135). -/
theorem ticksLow_le_ticksHigh {c : Config} {d : Int} (hc : c.Valid) (hd : 0 ≤ d) : ticksLow c d ≤ ticksHigh c d := by
  have hnum : d * (100 - c.tolPct) ≤ d * (100 + c.tolPct) := Int.mul_le_mul_of_nonneg_left (by omega) hd
  exact (Int.tdiv_le_tdiv (tickDenominator_pos hc) hnum).trans (Int.le_add_one (Int.le_refl _))

/-! ### The two predicates (41_matcher.md R132 to R135) -/

theorem inWindow_eq_decide (c : Config) (d : Int) (t : Nat) :
    inWindow c d t = decide (ticksLow c d ≤ t ∧ (t : Int) ≤ ticksHigh c d) :=
  (Bool.decide_and ..).symm

theorem inWindow_iff {c : Config} {d : Int} {t : Nat} :
    inWindow c d t = true ↔ ticksLow c d ≤ t ∧ (t : Int) ≤ ticksHigh c d := by
  rw [inWindow_eq_decide, decide_eq_true_iff]

theorem inWindow_false_iff {c : Config} {d : Int} {t : Nat} :
    inWindow c d t = false ↔ (t : Int) < ticksLow c d ∨ ticksHigh c d < t := by
  rw [← Bool.not_eq_true, inWindow_iff]
  omega

/-- Where the window is not empty, both bounds are in it and the counts beside them are not (41_matcher.md R134). -/
theorem inWindow_at_bounds {c : Config} {d : Int} (hc : c.Valid) (hd : 0 ≤ d) (t : Nat) :
    ((t : Int) = ticksLow c d → inWindow c d t = true) ∧
    ((t : Int) = ticksHigh c d → inWindow c d t = true) ∧
    ((t : Int) + 1 = ticksLow c d → inWindow c d t = false) ∧
    ((t : Int) = ticksHigh c d + 1 → inWindow c d t = false) := by
  have hle := ticksLow_le_ticksHigh hc hd
  rw [inWindow_iff, inWindow_false_iff]
  omega

/-- Settles O25: a mark's corrected duration is never negative, and no count is at or below a negative high bound. -/
theorem windowBoundsAreInclusive : Obligations.WindowBoundsAreInclusive := by
  intro c us t hc
  refine ⟨inWindow_at_bounds hc (by omega) t, fun hus => inWindow_at_bounds hc (by omega) t, fun hneg => ?_⟩
  exact inWindow_false_iff.mpr (.inr (hneg.trans_le (Int.natCast_nonneg t)))

/-! ### The MATCH command (41_matcher.md R136) -/

/-- Two bounds side by side in a word read back modulo 2^16, a negative one as its two's complement. -/
theorem toNat_ofInt_append_ofInt (hi lo : Int) :
    ((BitVec.ofInt 16 hi ++ BitVec.ofInt 16 lo).toNat : Int) = (hi % 65536) * 65536 + lo % 65536 := by
  rw [BitVec.toNat_append, ← Nat.shiftLeft_add_eq_or_of_lt (BitVec.isLt _), Nat.shiftLeft_eq, BitVec.toNat_ofInt,
    BitVec.toNat_ofInt]
  omega

theorem windowWord_toNat (c : Config) (d : Int) :
    ((windowWord c d).toNat : Int) = (ticksHigh c d % 65536) * 65536 + ticksLow c d % 65536 :=
  toNat_ofInt_append_ofInt _ _

/-- MATCH only responds, with the window of the corrected duration and the comparison with it. -/
theorem exec_matchWindow (kind : Bool) (ticks us : BitVec 16) (s : State) :
    exec (.matchWindow kind ticks us) s =
      .next (respond .ok (windowWord s.cfg (correctedDuration s.cfg kind us.toNat)) 0 0
        (inWindow s.cfg (correctedDuration s.cfg kind us.toNat) ticks.toNat) s) := rfl

/-- Settles O27: RESULT is the window word, and the hit is the comparison with the exact bounds. -/
theorem matchReportsTheWindowAndTheHit : Obligations.MatchReportsTheWindowAndTheHit := by
  intro s kind ticks us d lo hi
  refine ⟨windowWord s.cfg d, ?_, windowWord_toNat s.cfg d⟩
  rw [exec_matchWindow, inWindow_eq_decide]
  rfl

/-! ### The reference configuration (41_matcher.md R138) -/

/-- The windows with the parameters of R8 filled in: 25 percent about a duration corrected by 100 µs, in ticks of 50 µs. -/
theorem window_reference (anchor : BitAnchor) (err : Nat) (kind : Bool) (us : Nat) :
    let c := Config.reference anchor err
    let d : Int := if kind then us + 100 else us - 100
    (ticksLow c (correctedDuration c kind us), ticksHigh c (correctedDuration c kind us)) =
      ((d * 75).tdiv 5000, (d * 125).tdiv 5000 + 1) := rfl

/-- Settles O26: each nominal duration of R8 put into `window_reference`. -/
theorem referenceWindowsAreAsListed : Obligations.ReferenceWindowsAreAsListed := by
  intro anchor err c window
  have hwindow := window_reference anchor err
  exact ⟨(hwindow true 9000).trans (by decide), (hwindow false 4500).trans (by decide),
    (hwindow true 560).trans (by decide), (hwindow false 1690).trans (by decide),
    (hwindow false 560).trans (by decide), (hwindow false 2250).trans (by decide)⟩

/-- A predicate of the matcher compares with the bounds of the window it is known to have. -/
theorem inWindow_iff_of_window {c : Config} {d lo hi : Int} (h : (ticksLow c d, ticksHigh c d) = (lo, hi)) {t : Nat} :
    inWindow c d t = true ↔ lo ≤ t ∧ (t : Int) ≤ hi := by
  obtain ⟨rfl, rfl⟩ := Prod.mk.inj h
  exact inWindow_iff

theorem possibleCount_reference_iff {anchor : BitAnchor} {err d n : Nat} :
    PossibleCount (.reference anchor err) d n ↔ ((n : Int) - 1) * 50 < d + err ∧ (d : Int) - err < ((n : Int) + 1) * 50 :=
  Iff.rfl

/-- Without a timing error the possible counts are the floor and the ceiling of the quotient by TICK_US (43_encoder.md R180). -/
theorem possibleCount_reference_exact_iff {anchor : BitAnchor} {d n : Nat} :
    PossibleCount (.reference anchor 0) d n ↔ n = d / 50 ∨ n = (d + 49) / 50 := by
  rw [possibleCount_reference_iff]
  omega

/-- A window that holds the floor and the ceiling of the quotient by TICK_US holds every possible count. -/
theorem inWindow_of_possibleCount_reference {anchor : BitAnchor} {d n : Nat} {corrected lo hi : Int}
    (hwindow : (ticksLow (.reference anchor 0) corrected, ticksHigh (.reference anchor 0) corrected) = (lo, hi))
    (hlo : lo ≤ (d / 50 : Nat)) (hhi : ((d + 49) / 50 : Nat) ≤ hi) (hn : PossibleCount (.reference anchor 0) d n) :
    inWindow (.reference anchor 0) corrected n = true := by
  rw [inWindow_iff_of_window hwindow]
  rcases possibleCount_reference_exact_iff.mp hn with rfl | rfl <;> omega

/-- Settles O50: the counts are the two quotients, and they lie between the bounds that R138 lists. -/
theorem referenceSampleCountsLieInTheirWindows : Obligations.ReferenceSampleCountsLieInTheirWindows := by
  intro anchor n
  refine ⟨?_, fun err => ?_⟩
  · intro c
    have hcount (d : Nat) : PossibleCount c d n ↔ n = d / 50 ∨ n = (d + 49) / 50 := possibleCount_reference_exact_iff
    obtain ⟨hHdrMark, hHdrSpace, hBitMark, hOneSpace, hZeroSpace, -⟩ := referenceWindowsAreAsListed anchor 0
    exact ⟨(hcount 9000).trans or_self_iff, (hcount 4500).trans or_self_iff, hcount 560, hcount 1690, hcount 560,
      inWindow_of_possibleCount_reference (d := 9000) hHdrMark (by decide) (by decide),
      inWindow_of_possibleCount_reference (d := 4500) hHdrSpace (by decide) (by decide),
      inWindow_of_possibleCount_reference (d := 560) hBitMark (by decide) (by decide),
      inWindow_of_possibleCount_reference (d := 1690) hOneSpace (by decide) (by decide),
      inWindow_of_possibleCount_reference (d := 560) hZeroSpace (by decide) (by decide)⟩
  · intro c
    obtain ⟨-, -, -, -, hZeroSpace, -⟩ := referenceWindowsAreAsListed anchor err
    refine ⟨(possibleCount_reference_iff (d := 560)).trans (by omega), ?_⟩
    exact Bool.eq_false_iff.mpr fun h => absurd ((inWindow_iff_of_window hZeroSpace).mp h) (by decide)

end Sys2Proof.Machine
end

section
/-! SUPPORT. The DECODER (42_decoder.md): how step 6 reads the bits, the outcome of a capture as a relation that names its check,
and what TRY_DECODE answers. -/

namespace Sys2Proof.Machine

/-! ### The bits (42_decoder.md R150 step 6, R155, R156) -/

/-- The mark of bit `i` is in its window. -/
abbrev MarkMatches (c : Config) (b : Nat → Nat) (i : Nat) : Prop := matchMark c (b (2 * i + 3)) c.necBitMark = true

/-- The space of bit `i` is in one of the two bit-space windows. -/
abbrev SpaceMatches (c : Config) (b : Nat → Nat) (i : Nat) : Prop :=
  matchSpace c (b (2 * i + 4)) c.necOneSpace = true ∨ matchSpace c (b (2 * i + 4)) c.necZeroSpace = true

/-- Bit `i` passes both of its checks. -/
abbrev BitMatches (c : Config) (b : Nat → Nat) (i : Nat) : Prop := MarkMatches c b i ∧ SpaceMatches c b i

/-- A bit is 1 exactly when its space matches NEC_ONE_SPACE, which is tested first. -/
theorem classifySpace_of_spaceMatches {c : Config} {b : Nat → Nat} {i : Nat} (h : SpaceMatches c b i) :
    classifySpace c (b (2 * i + 4)) = some (matchSpace c (b (2 * i + 4)) c.necOneSpace) := by
  rw [classifySpace_eq_some]
  cases hone : matchSpace c (b (2 * i + 4)) c.necOneSpace with
  | true => exact .inl ⟨rfl, rfl⟩
  | false => exact .inr ⟨rfl, rfl, h.resolve_left (by simp [hone])⟩

theorem decodeBits_of_bitMatches {c : Config} {b : Nat → Nat} {i : Nat} (h : BitMatches c b i) (todo : Nat)
    (data : BitVec 32) : decodeBits c b (todo + 1) i data =
      decodeBits c b todo (i + 1) (shiftIn data (matchSpace c (b (2 * i + 4)) c.necOneSpace)) := by
  obtain ⟨hmark, hspace⟩ := h
  rw [decodeBits, if_pos hmark, classifySpace_of_spaceMatches hspace]

theorem decodeBits_of_not_markMatches {c : Config} {b : Nat → Nat} {i : Nat} (h : ¬MarkMatches c b i) (todo : Nat)
    (data : BitVec 32) : decodeBits c b (todo + 1) i data = .error (.bitMark i) := by
  rw [decodeBits, if_neg h]

theorem decodeBits_of_not_spaceMatches {c : Config} {b : Nat → Nat} {i : Nat} (hmark : MarkMatches c b i)
    (hspace : ¬SpaceMatches c b i) (todo : Nat) (data : BitVec 32) :
    decodeBits c b (todo + 1) i data = .error (.bitSpace i) := by
  rw [decodeBits, if_pos hmark, classifySpace_eq_none.2 (by simpa [SpaceMatches] using hspace)]

theorem shiftIn_getLsbD_zero (data : BitVec 32) (x : Bool) : (shiftIn data x).getLsbD 0 = x := by
  cases x <;> simp [shiftIn]

theorem shiftIn_getLsbD_succ (data : BitVec 32) (x : Bool) (j : Nat) :
    (shiftIn data x).getLsbD (j + 1) = (decide (j + 1 < 32) && data.getLsbD j) := by
  cases x <;> simp [shiftIn]

/-- `v` holds the first `n` bits of the capture, the first one highest, and zeros above them. -/
structure HoldsBits (c : Config) (b : Nat → Nat) (n : Nat) (v : BitVec 32) : Prop where
  bit : ∀ j i, j + i + 1 = n → j < 32 → v.getLsbD j = matchSpace c (b (2 * i + 4)) c.necOneSpace
  above : ∀ j, n ≤ j → v.getLsbD j = false

theorem holdsBits_zero (c : Config) (b : Nat → Nat) : HoldsBits c b 0 0 where
  bit _ _ h := absurd h (Nat.succ_ne_zero _)
  above _ _ := BitVec.getLsbD_zero

theorem HoldsBits.shiftIn {c : Config} {b : Nat → Nat} {n : Nat} {v : BitVec 32} (h : HoldsBits c b n v) :
    HoldsBits c b (n + 1) (shiftIn v (matchSpace c (b (2 * n + 4)) c.necOneSpace)) where
  bit j i hji hj := by
    cases j with
    | zero =>
      obtain rfl : i = n := by omega
      exact shiftIn_getLsbD_zero ..
    | succ j => rw [shiftIn_getLsbD_succ, h.bit j i (by omega) (by omega), decide_eq_true hj, Bool.true_and]
  above j hj := by
    obtain ⟨j, rfl⟩ := Nat.exists_eq_add_of_le' (Nat.le_of_add_left_le hj)
    rw [shiftIn_getLsbD_succ, h.above j (by omega), Bool.and_false]

theorem HoldsBits.unique {c : Config} {b : Nat → Nat} {n : Nat} {v w : BitVec 32} (hv : HoldsBits c b n v)
    (hw : HoldsBits c b n w) : v = w := by
  refine BitVec.eq_of_getLsbD_eq fun j hj => ?_
  by_cases hjn : j < n
  · rw [hv.bit j (n - 1 - j) (by omega) hj, hw.bit j (n - 1 - j) (by omega) hj]
  · rw [hv.above j (by omega), hw.above j (by omega)]

/-- Step 6 goes on to bit `n` with the bits before it read, when each of them passes its checks. -/
theorem decodeBits_passes {c : Config} {b : Nat → Nat} {n : Nat} (h : ∀ i, i < n → BitMatches c b i) (todo : Nat) :
    ∃ v, HoldsBits c b n v ∧ decodeBits c b (n + todo) 0 0 = decodeBits c b todo n v := by
  induction n generalizing todo with
  | zero => exact ⟨0, holdsBits_zero c b, by rw [Nat.zero_add]⟩
  | succ n ih =>
    obtain ⟨v, hv, heq⟩ := ih (fun i hi => h i (by omega)) (todo + 1)
    exact ⟨_, hv.shiftIn, by rw [Nat.add_right_comm, Nat.add_assoc, heq, decodeBits_of_bitMatches (h n (by omega))]⟩

/-! ### The outcome of a capture (42_decoder.md R150, R162) -/

/-- The repeat shape (42_decoder.md R153). -/
abbrev RepeatShape (c : Config) (n : Nat) (b : Nat → Nat) : Prop :=
  n = 4 ∧ matchSpace c (b 2) c.necRptSpace = true ∧ matchMark c (b 3) c.necBitMark = true

/-- The capture passes every check before step 6. -/
abbrev ReachesBits (c : Config) (n : Nat) (b : Nat → Nat) : Prop :=
  2 ≤ n ∧ matchMark c (b 1) c.necHdrMark = true ∧ ¬RepeatShape c n b ∧ 2 * c.necBits + 4 ≤ n ∧
    matchSpace c (b 2) c.necHdrSpace = true

/-- The capture of `n` entries `b` has this outcome: one of the six checks of 42_decoder.md R162 is the first to fail, or it is a
repeat code, or a full frame. -/
inductive DecodesTo (c : Config) (n : Nat) (b : Nat → Nat) : Except InvalidCause Decoded → Prop
  | tooShort (hlong : ¬2 ≤ n) : DecodesTo c n b (.error .tooShort)
  | headerMark (hlong : 2 ≤ n) (hmark : ¬matchMark c (b 1) c.necHdrMark = true) : DecodesTo c n b (.error .headerMark)
  | repeatCode (hlong : 2 ≤ n) (hmark : matchMark c (b 1) c.necHdrMark = true) (hrepeat : RepeatShape c n b) :
      DecodesTo c n b (.ok .repeatCode)
  | tooFewEntries (hlong : 2 ≤ n) (hmark : matchMark c (b 1) c.necHdrMark = true) (hrepeat : ¬RepeatShape c n b)
      (henough : ¬2 * c.necBits + 4 ≤ n) : DecodesTo c n b (.error .tooFewEntries)
  | headerSpace (hlong : 2 ≤ n) (hmark : matchMark c (b 1) c.necHdrMark = true) (hrepeat : ¬RepeatShape c n b)
      (henough : 2 * c.necBits + 4 ≤ n) (hspace : ¬matchSpace c (b 2) c.necHdrSpace = true) :
      DecodesTo c n b (.error .headerSpace)
  | bitMark {i : Nat} (hreached : ReachesBits c n b) (hi : i < c.necBits) (hbefore : ∀ j, j < i → BitMatches c b j)
      (hmark : ¬MarkMatches c b i) : DecodesTo c n b (.error (.bitMark i))
  | bitSpace {i : Nat} (hreached : ReachesBits c n b) (hi : i < c.necBits) (hbefore : ∀ j, j < i → BitMatches c b j)
      (hmark : MarkMatches c b i) (hspace : ¬SpaceMatches c b i) : DecodesTo c n b (.error (.bitSpace i))
  | frame {v : BitVec 32} (hreached : ReachesBits c n b) (hbits : ∀ i, i < c.necBits → BitMatches c b i)
      (hv : HoldsBits c b c.necBits v) : DecodesTo c n b (.ok (.frame v))

section
variable {c : Config} {n : Nat} {b : Nat → Nat}

/-- Past the checks before it, step 6 decides. -/
theorem decodeCapture_of_reachesBits (h : ReachesBits c n b) :
    decodeCapture c n b = (decodeBits c b c.necBits 0 0).map .frame := by
  obtain ⟨hlong, hmark, hrepeat, henough, hspace⟩ := h
  simp only [decodeCapture, Nat.not_lt.2 hlong, hmark, mt isRepeatShape_eq_true.1 hrepeat, Nat.not_lt.2 henough, hspace]
  cases decodeBits c b c.necBits 0 0 <;> rfl

/-- Where bit `i` is the first that step 6 does not pass, it stands at bit `i`. -/
theorem decodeBits_at {i : Nat} (hi : i < c.necBits) (hbefore : ∀ j, j < i → BitMatches c b j) :
    ∃ todo v, decodeBits c b c.necBits 0 0 = decodeBits c b (todo + 1) i v := by
  obtain ⟨todo, htodo⟩ := Nat.exists_eq_add_of_lt hi
  obtain ⟨v, -, h⟩ := decodeBits_passes hbefore (todo + 1)
  exact ⟨todo, v, by rw [htodo, Nat.add_assoc, h]⟩

/-- The decoder computes the outcome. -/
theorem DecodesTo.eq {r : Except InvalidCause Decoded} (h : DecodesTo c n b r) : decodeCapture c n b = r := by
  cases h with
  | tooShort hlong => simp [decodeCapture, Nat.not_le.1 hlong]
  | headerMark hlong hmark => simp [decodeCapture, Nat.not_lt.2 hlong, hmark]
  | repeatCode hlong hmark hrepeat => simp [decodeCapture, Nat.not_lt.2 hlong, hmark, isRepeatShape_eq_true.2 hrepeat]
  | tooFewEntries hlong hmark hrepeat henough =>
    simp [decodeCapture, Nat.not_lt.2 hlong, hmark, mt isRepeatShape_eq_true.1 hrepeat, Nat.not_le.1 henough]
  | headerSpace hlong hmark hrepeat henough hspace =>
    simp [decodeCapture, Nat.not_lt.2 hlong, hmark, mt isRepeatShape_eq_true.1 hrepeat, Nat.not_lt.2 henough, hspace]
  | bitMark hreached hi hbefore hmark =>
    obtain ⟨todo, v, h⟩ := decodeBits_at hi hbefore
    rw [decodeCapture_of_reachesBits hreached, h, decodeBits_of_not_markMatches hmark]
    rfl
  | bitSpace hreached hi hbefore hmark hspace =>
    obtain ⟨todo, v, h⟩ := decodeBits_at hi hbefore
    rw [decodeCapture_of_reachesBits hreached, h, decodeBits_of_not_spaceMatches hmark hspace]
    rfl
  | frame hreached hbits hv =>
    obtain ⟨w, hw, h⟩ := decodeBits_passes hbits 0
    rw [decodeCapture_of_reachesBits hreached, show decodeBits c b c.necBits 0 0 = .ok w from h, hw.unique hv]
    rfl

/-- Past the checks before step 6, the bits all pass, or one is the first to fail. -/
theorem ReachesBits.exists_decodesTo (h : ReachesBits c n b) : ∃ r, DecodesTo c n b r := by
  by_cases hbits : ∀ i, i < c.necBits → BitMatches c b i
  · obtain ⟨v, hv, -⟩ := decodeBits_passes hbits 0
    exact ⟨_, .frame h hbits hv⟩
  · have hfail : ∃ i, i < c.necBits ∧ ¬BitMatches c b i := by simpa using hbits
    obtain ⟨hi, hnot⟩ := Nat.find_spec hfail
    have hbefore (j : Nat) (hj : j < Nat.find hfail) : BitMatches c b j :=
      not_not.1 fun hn => Nat.find_min hfail hj ⟨hj.trans hi, hn⟩
    by_cases hmark : MarkMatches c b (Nat.find hfail)
    · exact ⟨_, .bitSpace h hi hbefore hmark fun hspace => hnot ⟨hmark, hspace⟩⟩
    · exact ⟨_, .bitMark h hi hbefore hmark⟩

/-- The checks in their order (42_decoder.md R162). -/
theorem exists_decodesTo (c : Config) (n : Nat) (b : Nat → Nat) : ∃ r, DecodesTo c n b r := by
  by_cases hlong : 2 ≤ n
  case neg => exact ⟨_, .tooShort hlong⟩
  by_cases hmark : matchMark c (b 1) c.necHdrMark = true
  case neg => exact ⟨_, .headerMark hlong hmark⟩
  by_cases hrepeat : RepeatShape c n b
  case pos => exact ⟨_, .repeatCode hlong hmark hrepeat⟩
  by_cases henough : 2 * c.necBits + 4 ≤ n
  case neg => exact ⟨_, .tooFewEntries hlong hmark hrepeat henough⟩
  by_cases hspace : matchSpace c (b 2) c.necHdrSpace = true
  case neg => exact ⟨_, .headerSpace hlong hmark hrepeat henough hspace⟩
  exact ReachesBits.exists_decodesTo ⟨hlong, hmark, hrepeat, henough, hspace⟩

theorem decodeCapture_eq_iff {r : Except InvalidCause Decoded} : decodeCapture c n b = r ↔ DecodesTo c n b r := by
  refine ⟨?_, DecodesTo.eq⟩
  rintro rfl
  obtain ⟨r, h⟩ := exists_decodesTo c n b
  exact h.eq ▸ h

end

/-! ### TRY_DECODE (42_decoder.md R150, R151, R158, R160) -/

/-- A capture that is not complete is not looked at. -/
theorem exec_tryDecode_not_stopped {s : State} (h : s.st ≠ .stopped) : exec .tryDecode s = .next (raise .notReady s) :=
  congrArg Host.Outcome.next (if_neg h)

/-- A stopped capture is answered by its outcome. -/
theorem exec_tryDecode_of_decodesTo {s : State} (hst : s.st = .stopped) {r : Except InvalidCause Decoded}
    (h : DecodesTo s.cfg s.rawlen.toNat (memRead s) r) : exec .tryDecode s = .next (respondDecode s r) :=
  h.eq ▸ execTryDecode_stopped hst

theorem respondDecode_ok_respStatus (s : State) (d : Decoded) : (respondDecode s (.ok d)).respStatus = .decoded := by
  cases d <;> rfl

theorem necBits_bounds {c : Config} (h : c.Valid) : 1 ≤ c.necBits ∧ c.necBits ≤ 32 := by
  obtain ⟨-, -, -, -, -, -, -, -, -, -, -, hbits, -⟩ := h
  exact hbits

/-- Settles O28: readiness is tested first. -/
theorem decodeBeforeStoppedIsNotReady : Obligations.DecodeBeforeStoppedIsNotReady :=
  fun _ h => exec_tryDecode_not_stopped h

/-- Settles O29: four entries are too few for a frame of one bit or more. -/
theorem fourEntriesAreARepeatCodeOrInvalid : Obligations.FourEntriesAreARepeatCodeOrInvalid := by
  intro s hc hst hlen hmark isRepeat
  obtain ⟨hbits, -⟩ := necBits_bounds hc
  have hfour : s.rawlen.toNat = 4 := congrArg BitVec.toNat hlen
  constructor
  · intro hrepeat
    exact exec_tryDecode_of_decodesTo hst (.repeatCode (by omega) hmark ⟨hfour, hrepeat⟩)
  · intro hrepeat
    exact exec_tryDecode_of_decodesTo hst (.tooFewEntries (by omega) hmark (fun h => hrepeat h.2) (by omega))

/-- Settles O30: the value holds the bits of the capture. -/
theorem aFullFrameDecodesFirstBitHighest : Obligations.AFullFrameDecodesFirstBitHighest := by
  intro s hc hst hlen hmark hspace hbits
  obtain ⟨hone, hle⟩ := necBits_bounds hc
  obtain ⟨v, hv, -⟩ := decodeBits_passes hbits 0
  have hreached : ReachesBits s.cfg s.rawlen.toNat (memRead s) :=
    ⟨by omega, hmark, fun ⟨hfour, _⟩ => by omega, hlen, hspace⟩
  exact ⟨v, exec_tryDecode_of_decodesTo hst (.frame hreached hbits hv),
    fun i hi => hv.bit _ i (by omega) (by omega), hv.above⟩

/-- Settles O31: each check is one case of `DecodesTo`, whose premises are the checks that pass before it. -/
theorem invalidIsRaisedByTheSixChecksInOrder : Obligations.InvalidIsRaisedByTheSixChecksInOrder := by
  intro s hst c n b long header isRepeat enough headerSpace mark space reached
  refine ⟨?_, ?_, ?_, ?_, fun i => ?_, fun i => ?_, ?_, ?_⟩
  · exact decodeCapture_eq_iff.trans ⟨fun | .tooShort hl => hl, .tooShort⟩
  · exact decodeCapture_eq_iff.trans ⟨fun | .headerMark hl hm => ⟨hl, hm⟩, fun ⟨hl, hm⟩ => .headerMark hl hm⟩
  · exact decodeCapture_eq_iff.trans
      ⟨fun | .tooFewEntries hl hm hr he => ⟨hl, hm, hr, he⟩, fun ⟨hl, hm, hr, he⟩ => .tooFewEntries hl hm hr he⟩
  · exact decodeCapture_eq_iff.trans
      ⟨fun | .headerSpace hl hm hr he hs => ⟨hl, hm, hr, he, hs⟩,
        fun ⟨hl, hm, hr, he, hs⟩ => .headerSpace hl hm hr he hs⟩
  · exact decodeCapture_eq_iff.trans
      ⟨fun | .bitMark hr hi hb hm => ⟨hr, hi, hb, hm⟩, fun ⟨hr, hi, hb, hm⟩ => .bitMark hr hi hb hm⟩
  · exact decodeCapture_eq_iff.trans
      ⟨fun | .bitSpace hr hi hb hm hs => ⟨hr, hi, hb, hm, hs⟩, fun ⟨hr, hi, hb, hm, hs⟩ => .bitSpace hr hi hb hm hs⟩
  · rintro ⟨cause, herror⟩
    exact exec_tryDecode_of_decodesTo hst (decodeCapture_eq_iff.1 herror)
  · intro hok
    obtain ⟨r, hr⟩ := exists_decodesTo c n b
    cases r with
    | error cause => exact absurd hr.eq (hok cause)
    | ok d => exact ⟨_, exec_tryDecode_of_decodesTo hst hr, respondDecode_ok_respStatus s d⟩

/-- A decode reads the SAMPLER's registers and the parameters only (42_decoder.md R164). -/
theorem SameSampler.decodeCapture_eq {s t : State} (h : SameSampler s t) :
    decodeCapture t.cfg t.rawlen.toNat (memRead t) = decodeCapture s.cfg s.rawlen.toNat (memRead s) := by
  rw [h.cfg, h.rawlen, memRead_eq_of_buf h.cfg h.buf]

/-- The response of an outcome does not depend on the response before it. -/
theorem respondDecode_respondDecode (s : State) (r : Except InvalidCause Decoded) :
    respondDecode (respondDecode s r) r = respondDecode s r := by
  rcases r with _ | _ | _ <;> rfl

/-- Settles O32: the answer leaves what the second TRY_DECODE reads, and the same response written twice is that response. -/
theorem decodeKeepsTheCaptureAndRepeats : Obligations.DecodeKeepsTheCaptureAndRepeats := by
  intro s
  by_cases hst : s.st = .stopped
  · have honly := respondDecode_onlyResponds s (decodeCapture s.cfg s.rawlen.toNat (memRead s))
    refine ⟨_, execTryDecode_stopped hst, honly, ?_⟩
    have hagain := execTryDecode_stopped (honly.sameSampler.st.trans hst)
    rw [honly.sameSampler.decodeCapture_eq, respondDecode_respondDecode] at hagain
    exact hagain
  · exact ⟨_, exec_tryDecode_not_stopped hst, raise_onlyResponds _ s,
      exec_tryDecode_not_stopped (s := raise .notReady s) hst⟩

/-- The decode reads entries 1 to 2·NEC_BITS + 2 only (42_decoder.md R152, R157). -/
theorem decodeCapture_congr_checked {c : Config} {n : Nat} {b b' : Nat → Nat} (hbits : 1 ≤ c.necBits)
    (h : ∀ i, 1 ≤ i → i ≤ 2 * c.necBits + 2 → b' i = b i) : decodeCapture c n b' = decodeCapture c n b := by
  unfold decodeCapture isRepeatShape
  rw [h 1 (by omega) (by omega), h 2 (by omega) (by omega), h 3 (by omega) (by omega),
    decodeBits_congr c.necBits 0 0 fun k _ _ => h k (by omega) (by omega)]

/-- Settles O33: the two captures have one outcome, and the response depends on it and on the parameters only. -/
theorem uncheckedEntriesHaveNoEffect : Obligations.UncheckedEntriesHaveNoEffect := by
  intro s s' hc hcfg hst' hlen h
  by_cases hst : s.st = .stopped
  · refine ⟨_, _, execTryDecode_stopped hst, execTryDecode_stopped (hst'.trans hst), ?_⟩
    rw [hcfg, hlen, decodeCapture_congr_checked (necBits_bounds hc).1 h]
    exact respondDecode_congr hcfg _
  · exact ⟨_, _, exec_tryDecode_not_stopped hst, exec_tryDecode_not_stopped (hst' ▸ hst), rfl, rfl, rfl, rfl, rfl⟩

/-- Settles O35: DECODED is answered to a repeat code, which has 4 entries, and to a frame, which has more. -/
theorem bitCountTellsRepeatFromFrame : Obligations.BitCountTellsRepeatFromFrame := by
  intro s t hc hst hexec hstatus
  obtain ⟨hone, hle⟩ := necBits_bounds hc
  obtain ⟨r, hr⟩ := exists_decodesTo s.cfg s.rawlen.toNat (memRead s)
  cases (exec_tryDecode_of_decodesTo hst hr).symm.trans hexec
  cases hr with
  | tooShort | headerMark | tooFewEntries | headerSpace | bitMark | bitSpace => cases hstatus
  | repeatCode hlong hmark hrepeat =>
    have hlen : s.rawlen = 4 := BitVec.eq_of_toNat_eq hrepeat.1
    exact ⟨iff_of_true rfl hlen, fun _ => rfl, fun hne => absurd hlen hne⟩
  | frame hreached hbits hv =>
    obtain ⟨-, -, -, henough, -⟩ := hreached
    have hcount : (BitVec.ofNat 6 s.cfg.necBits).toNat = s.cfg.necBits := Nat.mod_eq_of_lt (by omega)
    have hzero : BitVec.ofNat 6 s.cfg.necBits ≠ 0 := fun h => by simp [h] at hcount; omega
    have hlen : s.rawlen ≠ 4 := fun h => by simp [h] at henough; omega
    exact ⟨iff_of_false hzero hlen, fun h => absurd h hlen, fun _ => hcount⟩

end Sys2Proof.Machine
end

section
/-! SUPPORT. The ENCODER (43_encoder.md): what a transmission emits, its length and time, TICKs inside it, and the round trip from
a replayed transmission back to the sent bits. -/

namespace Sys2Proof.Machine

/-! ### The items of a transmission (43_encoder.md R170, R175, R178) -/

theorem length_flatMap_bitItems (c : Config) (value : BitVec 32) (nbits : Nat) (is : List Nat) :
    (is.flatMap (bitItems c value nbits)).length = 2 * is.length := by
  induction is with
  | nil => rfl
  | cons i is ih =>
    rw [List.flatMap_cons, List.length_append, ih, List.length_cons, show (bitItems c value nbits i).length = 2 from rfl]
    omega

/-- The bits of a transmission are 2·nbits items. -/
theorem length_rangeBits (c : Config) (value : BitVec 32) (nbits : Nat) :
    ((List.range nbits).flatMap (bitItems c value nbits)).length = 2 * nbits := by
  rw [length_flatMap_bitItems, List.length_range]

/-- A bit takes a bit mark and, by its value, a one or a zero space. -/
theorem time_bitItems (c : Config) (value : BitVec 32) (nbits i : Nat) :
    ((bitItems c value nbits i).map itemTime).sum =
      c.necBitMark + if bitSel c.encBitAnchor value nbits i then c.necOneSpace else c.necZeroSpace := rfl

/-- The time of some bits, by how many of them are 1 (43_encoder.md R178). -/
theorem time_flatMap_bitItems (c : Config) (value : BitVec 32) (nbits : Nat) (is : List Nat) :
    ((is.flatMap (bitItems c value nbits)).map itemTime).sum =
      is.length * c.necBitMark + (is.filter (bitSel c.encBitAnchor value nbits)).length * c.necOneSpace
        + (is.length - (is.filter (bitSel c.encBitAnchor value nbits)).length) * c.necZeroSpace := by
  induction is with
  | nil => simp
  | cons i is ih =>
    have hle := List.length_filter_le (bitSel c.encBitAnchor value nbits) is
    rw [List.flatMap_cons, List.map_append, List.sum_append, ih, time_bitItems]
    cases hbit : bitSel c.encBitAnchor value nbits i with
    | true =>
      rw [List.filter_cons_of_pos hbit, List.length_cons, List.length_cons, Nat.add_sub_add_right, if_pos rfl]
      ring
    | false =>
      rw [List.filter_cons_of_neg (by simp [hbit]), List.length_cons, Nat.sub_add_comm hle, if_neg Bool.false_ne_true]
      ring

/-- Settles O38: the header and the end have fixed items, and the bits have their two lemmas. -/
theorem transmitLengthAndTime : Obligations.TransmitLengthAndTime := by
  intro c value n khz
  refine ⟨?_, ?_⟩
  · simp only [transmitItems, List.length_append, length_rangeBits, List.length_cons, List.length_nil]
    omega
  · have hbits := time_flatMap_bitItems c value n (List.range n)
    rw [List.length_range] at hbits
    simp only [transmitItems, List.map_append, List.sum_append, hbits, sentOnes]
    simp only [List.map_cons, List.map_nil, List.sum_cons, List.sum_nil, itemTime]
    ring

/-- Of all 32 bits both anchors send the same one at every position (43_encoder.md R175). -/
theorem bitSel_full (anchor : BitAnchor) (value : BitVec 32) (i : Nat) :
    bitSel anchor value 32 i = value.getLsbD (31 - i) := by
  cases anchor <;> rfl

/-- Settles O39: a transmission looks at the anchor only to select its bits. -/
theorem anchorsAgreeOnFullWords : Obligations.AnchorsAgreeOnFullWords := by
  intro c value khz anchor anchor'
  have hbit : bitItems { c with encBitAnchor := anchor } value 32 = bitItems { c with encBitAnchor := anchor' } value 32 := by
    funext i
    simp only [bitItems, bitSel_full]
  unfold transmitItems
  rw [hbit]

/-- The spaces inside a frame have a duration that is not 0 (00_scope.md R7). -/
theorem spaces_ne_zero {c : Config} (hc : c.Valid) : c.necHdrSpace ≠ 0 ∧ c.necOneSpace ≠ 0 ∧ c.necZeroSpace ≠ 0 := by
  obtain ⟨-, -, -, -, -, -, ⟨hhdr, -⟩, -, ⟨hone, -⟩, ⟨hzero, -⟩, -⟩ := hc
  omega

/-- The space of a bit has a duration that is not 0. -/
theorem bitSpace_ne_zero {c : Config} (hc : c.Valid) (bit : Bool) : (if bit then c.necOneSpace else c.necZeroSpace) ≠ 0 := by
  obtain ⟨-, hone, hzero⟩ := spaces_ne_zero hc
  cases bit with
  | false => exact hzero
  | true => exact hone

/-! ### TRANSMIT with legal operands (43_encoder.md R170) -/

/-- The acceptance of a TRANSMIT: `busy <- 1`. -/
def accepted (s : State) : State := { s with busy := true }

/-- A transmission after `k` items is `k` items from the acceptance. -/
theorem transmitPhase_eq (value : BitVec 32) (nbits : Nat) (khz : BitVec 8) (k : Nat) (s : State) :
    transmitPhase value nbits khz k s = ((transmitItems s.cfg value nbits khz).take k).foldl emit (accepted s) := rfl

/-- A legal TRANSMIT emits its items from a busy state and ends. -/
theorem exec_transmit_legal {nbits : BitVec 6} {khz : BitVec 8} (hnbits : nbits.toNat ≤ 32) (hkhz : khz ≠ 0)
    (value : BitVec 32) (s : State) :
    exec (.transmit value nbits khz) s =
      .next (transmitEnd ((transmitItems s.cfg value nbits.toNat khz).foldl emit (accepted s))) := by
  rcases execTransmit_cases value nbits khz s with ⟨-, h⟩ | ⟨hillegal, -⟩
  · rw [transmitPhase_eq, List.take_length] at h
    exact h
  · exact absurd ⟨hnbits, hkhz⟩ hillegal

/-- The items write the trace and leave the output off at the frequency of the CFG (43_encoder.md R171, R174). -/
theorem foldl_emit_transmitItems (c : Config) (value : BitVec 32) (nbits : Nat) (khz : BitVec 8) (s : State) :
    (transmitItems c value nbits khz).foldl emit s =
      { s with outEn := false, outKhz := khz, trace := s.trace ++ transmitItems c value nbits khz } := by
  have hkhz : ((transmitItems c value nbits khz).foldl emit s).outKhz = khz :=
    foldl_emit_outKhz (s := emit s (.cfg khz)) rfl fun _ hx =>
      cfg_mem_transmitItems (List.mem_cons_of_mem (.cfg khz) hx : _ ∈ transmitItems c value nbits khz)
  rw [foldl_emit_keeps, foldl_emit_outEn (transmitItems_getLast? ..), hkhz]
  rfl

/-- Settles O36: the items with the anchor's two cases written out. -/
theorem transmitEmitsTheFrame : Obligations.TransmitEmitsTheFrame := by
  intro s value nbits khz hnbits hkhz n sent
  have hsent : sent = bitSel s.cfg.encBitAnchor value n := rfl
  rw [exec_transmit_legal hnbits hkhz, foldl_emit_transmitItems, hsent]
  rfl

/-! ### TICKs during a TRANSMIT (43_encoder.md R181, R182) -/

/-- What neither sees nor writes the SAMPLER commutes with a TICK. -/
theorem tickStep_comm {f : State → State} (hf : ∀ t s, f (withSampler t s) = withSampler (f t) s) (level : Level)
    (s : State) : tickStep level (f s) = f (tickStep level s) :=
  calc tickStep level (f s)
    _ = tickStep level (withSampler (f s) s) := congrArg (tickStep level) (hf s s)
    _ = withSampler (f s) (tickStep level s) := tickStep_withSampler ..
    _ = f (withSampler s (tickStep level s)) := (hf ..).symm
    _ = f (tickStep level s) := congrArg f (tickStep_withSampler level s s).symm

theorem tickStep_emit (level : Level) (s : State) (item : TraceItem) :
    tickStep level (emit s item) = emit (tickStep level s) item :=
  tickStep_comm (f := fun t => emit t item) (fun _ _ => by cases item <;> rfl) level s

theorem tickStep_foldl_emit (level : Level) (items : List TraceItem) (s : State) :
    tickStep level (items.foldl emit s) = items.foldl emit (tickStep level s) := by
  induction items generalizing s with
  | nil => rfl
  | cons item items ih => rw [List.foldl_cons, List.foldl_cons, ih, tickStep_emit]

theorem tickStep_transmitEnd (level : Level) (s : State) :
    tickStep level (transmitEnd s) = transmitEnd (tickStep level s) :=
  tickStep_comm (fun _ _ => rfl) level s

theorem tickStep_accepted (level : Level) (s : State) : tickStep level (accepted s) = accepted (tickStep level s) :=
  tickStep_comm (fun _ _ => rfl) level s

/-- Settles O41: the acceptance, each item and the end commute with a TICK, so it may stand before any of them. -/
theorem ticksDuringATransmissionCommute : Obligations.TicksDuringATransmissionCommute := by
  intro s level value nbits khz hnbits hkhz
  refine ⟨_, _, _, rfl, exec_transmit_legal hnbits hkhz value (tickStep level s), exec_transmit_legal hnbits hkhz value s,
    congrArg Host.Outcome.next ?_, fun k => ?_⟩
  · rw [tickStep_transmitEnd, tickStep_foldl_emit, tickStep_accepted, tickStep_cfg]
  · rw [transmitPhase_eq, tickStep_foldl_emit, ← List.foldl_append, List.take_append_drop, tickStep_accepted, tickStep_cfg]

theorem spaceTicks_add (c : Config) (m n : Nat) : spaceTicks c (m + n) = spaceTicks c m ++ spaceTicks c n :=
  List.replicate_add ..

/-! ### The runs of a capture (40_sampler.md R100, R106) -/

@[simp] theorem feed_cfg (levels : List Level) (s : State) : (feed levels s).cfg = s.cfg := by
  induction levels generalizing s with
  | nil => rfl
  | cons level levels ih => rw [feed_cons, ih, tickStep_cfg]

/-- The entries of the capture, in their order. -/
def captured (s : State) : List Nat := (List.range s.rawlen.toNat).map (memRead s)

theorem length_captured (s : State) : (captured s).length = s.rawlen.toNat := by
  rw [captured, List.length_map, List.length_range]

theorem captured_getElem? {s : State} {i : Nat} (hi : i < s.rawlen.toNat) : (captured s)[i]? = some (memRead s i) := by
  rw [captured, List.getElem?_map, List.getElem?_range hi]
  rfl

/-- The first sample of the other level: the run before it is appended, and it enters `x` (40_sampler.md R106). -/
def endRun (x : ReceiverState) (s : State) : State :=
  { s with cnt := 0, st := x, rawlen := s.rawlen + 1, buf := s.buf.write s.rawlen.toNat (nextCnt s) }

theorem memRead_endRun_same (x : ReceiverState) (s : State) : memRead (endRun x s) s.rawlen.toNat = nextCnt s := by
  simp [memRead, endRun]

theorem memRead_endRun_other (x : ReceiverState) {s : State} {i : Nat} (h : i ≠ s.rawlen.toNat) :
    memRead (endRun x s) i = memRead s i :=
  memRead_congr rfl (Memory.read?_write_other _ _ _ _ h)

theorem captured_endRun {s : State} (hc : s.cfg.Valid) (hb : s.rawlen.toNat < s.cfg.rawBuf) (x : ReceiverState) :
    captured (endRun x s) = captured s ++ [nextCnt s] := by
  have hlen : (endRun x s).rawlen.toNat = s.rawlen.toNat + 1 := rawlen_succ_toNat hc hb
  have hold : (List.range s.rawlen.toNat).map (memRead (endRun x s)) = captured s :=
    List.map_congr_left fun i hi => memRead_endRun_other x (List.mem_range.1 hi).ne
  rw [captured, hlen, List.range_succ, List.map_append, hold, List.map_singleton, memRead_endRun_same]

/-- The SAMPLER is in `x`, and `runs` are the lengths of the runs so far: the entries, and the run that it still times, whose
first sample reset the counter. -/
structure Timing (c : Config) (x : ReceiverState) (runs : List Nat) (s : State) : Prop where
  cfg : s.cfg = c
  st : s.st = x
  runs : captured s ++ [s.cnt + 1] = runs
  fits : s.cnt + 1 < cntModulus c

section
variable {c : Config} {x : ReceiverState} {runs : List Nat} {s : State} {us n : Nat} (hc : c.Valid)

theorem Timing.length (h : Timing c x runs s) : runs.length = s.rawlen.toNat + 1 := by
  rw [← h.runs, List.length_append, length_captured, List.length_singleton]

theorem Timing.rawlen_lt (h : Timing c x runs s) (hlen : runs.length ≤ c.rawBuf) : s.rawlen.toNat < s.cfg.rawBuf := by
  rw [h.cfg, ← Nat.succ_le_iff, Nat.succ_eq_add_one, ← h.length]
  exact hlen

theorem Timing.nextCnt_eq (h : Timing c x runs s) : nextCnt s = s.cnt + 1 := by
  rw [nextCnt, h.cfg, Nat.mod_eq_of_lt h.fits]

/-- The first sample of a space segment ends the mark before it. -/
theorem Timing.tickStep_space (h : Timing c .timingMark runs s) (hlen : runs.length ≤ c.rawBuf) :
    tickStep (!c.markLevel) s = endRun .timingSpace s :=
  tickStep_timingMark_space (h.rawlen_lt hlen) h.st (by rw [h.cfg])

/-- The first sample of a mark segment ends the space before it. -/
theorem Timing.tickStep_mark (h : Timing c .timingSpace runs s) (hlen : runs.length ≤ c.rawBuf) :
    tickStep c.markLevel s = endRun .timingMark s :=
  tickStep_timingSpace_mark (h.rawlen_lt hlen) h.st (by rw [h.cfg])

include hc

/-- Where a run ends, its length becomes an entry. -/
theorem Timing.captured_endRun (h : Timing c x runs s) (hlen : runs.length ≤ c.rawBuf) (y : ReceiverState) :
    captured (endRun y s) = runs := by
  rw [Machine.captured_endRun (h.cfg ▸ hc) (h.rawlen_lt hlen), h.nextCnt_eq, h.runs]

/-- Behind its first sample a new run counts on. -/
theorem Timing.endRun_countedOn (h : Timing c x runs s) (hlen : runs.length ≤ c.rawBuf) (y : ReceiverState) {k : Nat}
    (hk : k + 1 < cntModulus c) : Timing c y (runs ++ [k + 1]) (countedOn (endRun y s) k) := by
  have hcnt : (countedOn (endRun y s) k).cnt = k := by
    rw [countedOn_of_cnt_eq_zero rfl]
    exact Nat.mod_eq_of_lt (h.cfg ▸ Nat.lt_of_succ_lt hk)
  refine ⟨h.cfg, rfl, ?_, hcnt.symm ▸ hk⟩
  rw [hcnt, ← h.captured_endRun hc hlen y]
  rfl

/-- The length after a run that leaves room for the next entry. -/
theorem Timing.endRun_rawlen_lt (h : Timing c x runs s) (hlen : runs.length < c.rawBuf) (y : ReceiverState) :
    (endRun y s).rawlen.toNat < (endRun y s).cfg.rawBuf := by
  rw [← length_captured, h.captured_endRun hc hlen.le]
  exact h.cfg ▸ hlen

/-- A mark segment whose first sample ends the run before it. -/
theorem Timing.feed_markTicks (h : Timing c x runs s) (hlen : runs.length < c.rawBuf)
    (hfirst : tickStep c.markLevel s = endRun .timingMark s) (hfit : countFits c (.mark us) n) :
    Timing c .timingMark (runs ++ [n]) (feed (markTicks c n) s) := by
  obtain ⟨hpos, hmod, -⟩ := hfit
  obtain ⟨k, rfl⟩ := Nat.exists_eq_add_of_le' hpos
  have hrun : feed (markTicks c k) (endRun .timingMark s) = countedOn (endRun .timingMark s) k :=
    h.cfg ▸ feed_markTicks_timingMark (h.endRun_rawlen_lt hc hlen _) (cnt_lt_of_eq_zero rfl) rfl k
  rw [markTicks_succ, feed_cons, hfirst, hrun]
  exact h.endRun_countedOn hc hlen.le _ hmod

/-- A space segment that does not end the capture. -/
theorem Timing.feed_spaceTicks (h : Timing c .timingMark runs s) (hlen : runs.length < c.rawBuf) (hus : us ≠ 0)
    (hfit : countFits c (.space us) n) : Timing c .timingSpace (runs ++ [n]) (feed (spaceTicks c n) s) := by
  rw [countFits, if_neg hus] at hfit
  obtain ⟨hpos, hgap, -⟩ := hfit
  obtain ⟨k, rfl⟩ := Nat.exists_eq_add_of_le' hpos
  have hrun : feed (spaceTicks c k) (endRun .timingSpace s) = countedOn (endRun .timingSpace s) k :=
    h.cfg ▸ feed_spaceTicks_timingSpace (h.endRun_rawlen_lt hc hlen _) (cnt_lt_of_eq_zero rfl) rfl
      (h.cfg ▸ (Nat.zero_add k).trans_le (Nat.le_of_succ_le_succ hgap))
  rw [spaceTicks_succ, feed_cons, h.tickStep_space hlen.le, hrun]
  exact h.endRun_countedOn hc hlen.le _ (hgap.trans_lt (gapTicks_succ_lt_cntModulus hc))

/-- The segments of the bits, each a mark and a space (43_encoder.md R173). -/
theorem Timing.feed_bits {value : BitVec 32} {nbits : Nat} {is counts : List Nat} (h : Timing c .timingSpace runs s)
    (hlen : runs.length + 2 * is.length < c.rawBuf)
    (hfit : countsFit c (is.flatMap (bitItems c value nbits)) counts) :
    Timing c .timingSpace (runs ++ counts) (feed (replay c (is.flatMap (bitItems c value nbits)) counts) s) := by
  induction is generalizing runs s counts with
  | nil =>
    cases hfit
    rw [List.append_nil]
    exact h
  | cons i is ih =>
    rw [List.length_cons] at hlen
    obtain _ | ⟨hmark, _ | ⟨hspace, hfit⟩⟩ := hfit
    have hafterMark := h.feed_markTicks hc (by omega) (h.tickStep_mark (by omega)) hmark
    have hafterSpace := hafterMark.feed_spaceTicks hc (by rw [List.length_append, List.length_singleton]; omega)
      (bitSpace_ne_zero hc _) hspace
    have hrest := ih hafterSpace (by simp only [List.length_append, List.length_singleton]; omega) hfit
    simpa [replay, itemTicks, bitItems, feed_append] using hrest

end

/-! ### The segments of a transmission, replayed (43_encoder.md R180) -/

theorem countsFit_append {c : Config} {items items' : List TraceItem} {counts : List Nat}
    (h : countsFit c (items ++ items') counts) :
    ∃ front back, counts = front ++ back ∧ countsFit c items front ∧ countsFit c items' back := by
  induction items generalizing counts with
  | nil => exact ⟨[], counts, rfl, .nil, h⟩
  | cons item items ih =>
    obtain _ | ⟨hitem, hrest⟩ := h
    obtain ⟨front, back, rfl, hfront, hback⟩ := ih hrest
    exact ⟨_ :: front, back, rfl, .cons hitem hfront, hback⟩

theorem replay_append {c : Config} {items : List TraceItem} {counts : List Nat} (h : countsFit c items counts)
    (items' : List TraceItem) (counts' : List Nat) :
    replay c (items ++ items') (counts ++ counts') = replay c items counts ++ replay c items' counts' := by
  induction h with
  | nil => rfl
  | cons _ _ ih => simp [replay, ih]

/-- The segments of a transmission that a capture keeps: all but the CFG, which takes no time, and SPACE(0), which becomes the
trailing gap (43_encoder.md R172 to R174). -/
def frameItems (c : Config) (value : BitVec 32) (nbits : Nat) : List TraceItem :=
  .mark c.necHdrMark :: .space c.necHdrSpace ::
    ((List.range nbits).flatMap (bitItems c value nbits) ++ [.mark c.necBitMark])

theorem transmitItems_eq (c : Config) (value : BitVec 32) (nbits : Nat) (khz : BitVec 8) :
    transmitItems c value nbits khz = .cfg khz :: (frameItems c value nbits ++ [.space 0]) := by
  simp [transmitItems, frameItems]

theorem length_frameItems (c : Config) (value : BitVec 32) (nbits : Nat) :
    (frameItems c value nbits).length = 2 * nbits + 3 := by
  simp only [frameItems, List.length_append, length_rangeBits, List.length_cons, List.length_nil]

theorem frameItems_header (c : Config) (value : BitVec 32) (nbits : Nat) :
    (frameItems c value nbits)[0]? = some (.mark c.necHdrMark) ∧
    (frameItems c value nbits)[1]? = some (.space c.necHdrSpace) := ⟨rfl, rfl⟩

/-- The `i`-th pair of the bits' items. -/
theorem flatMap_bitItems_getElem? (c : Config) (value : BitVec 32) (nbits : Nat) {is : List Nat} {i j : Nat}
    (h : is[i]? = some j) :
    (is.flatMap (bitItems c value nbits))[2 * i]? = some (.mark c.necBitMark) ∧
    (is.flatMap (bitItems c value nbits))[2 * i + 1]? =
      some (.space (if bitSel c.encBitAnchor value nbits j then c.necOneSpace else c.necZeroSpace)) := by
  induction is generalizing i with
  | nil => cases h
  | cons i' is ih =>
    cases i with
    | zero =>
      cases h
      exact ⟨rfl, rfl⟩
    | succ i => exact ih h

/-- The segments of bit `i` (43_encoder.md R173). -/
theorem frameItems_bit (c : Config) (value : BitVec 32) {nbits i : Nat} (hi : i < nbits) :
    (frameItems c value nbits)[2 * i + 2]? = some (.mark c.necBitMark) ∧
    (frameItems c value nbits)[2 * i + 3]? =
      some (.space (if bitSel c.encBitAnchor value nbits i then c.necOneSpace else c.necZeroSpace)) := by
  have hlength := length_rangeBits c value nbits
  obtain ⟨hmark, hspace⟩ := flatMap_bitItems_getElem? c value nbits (List.getElem?_range hi)
  exact ⟨(List.getElem?_append_left (by omega)).trans hmark, (List.getElem?_append_left (by omega)).trans hspace⟩

/-- The mark that ends a genuine gap makes it the first run (40_sampler.md R104). -/
theorem Timing.tickStep_gap {c : Config} {s : State} (hc : c.Valid) (h : Timing c .idle [s.cnt + 1] s)
    (hgap : c.gapTicks ≤ s.cnt + 1) : tickStep c.markLevel s = endRun .timingMark s := by
  obtain rfl := h.cfg
  have hlen : s.rawlen = 0 := BitVec.eq_of_toNat_eq (Nat.succ.inj h.length.symm)
  rw [tickStep_idle_gap (rawlen_lt_of_eq_zero hc hlen) h.st rfl (h.nextCnt_eq ▸ hgap), endRun, hlen]
  rfl

/-- From Idle behind a genuine gap the segments of a transmission become runs behind the gap's. -/
theorem Timing.feed_frameItems {c : Config} {s : State} {value : BitVec 32} {nbits : Nat} {counts : List Nat}
    (hc : c.Valid) (h : Timing c .idle [s.cnt + 1] s) (hgap : c.gapTicks ≤ s.cnt + 1) (hlen : 2 * nbits + 4 ≤ c.rawBuf)
    (hfit : countsFit c (frameItems c value nbits) counts) :
    Timing c .timingMark ((s.cnt + 1) :: counts) (feed (replay c (frameItems c value nbits) counts) s) := by
  obtain _ | ⟨hmark, _ | ⟨hspace, hfit⟩⟩ := hfit
  obtain ⟨bits, last, rfl, hbits, hlast⟩ := countsFit_append hfit
  obtain _ | ⟨hclosing, _ | _⟩ := hlast
  have hbitsLen : bits.length = 2 * nbits := hbits.length_eq ▸ length_rangeBits c value nbits
  have hhdrMark := h.feed_markTicks hc (by simp only [List.length_singleton]; omega) (h.tickStep_gap hc hgap) hmark
  have hhdrSpace := hhdrMark.feed_spaceTicks hc (by simp; omega) (spaces_ne_zero hc).1 hspace
  have hlastBit := hhdrSpace.feed_bits hc (by simp; omega) hbits
  have hclosed := hlastBit.feed_markTicks hc (by simp; omega) (hlastBit.tickStep_mark (by simp; omega)) hclosing
  simpa [frameItems, replay, replay_append hbits, itemTicks, feed_append] using hclosed

/-- A space of GAP_TICKS + 1 samples behind its first one stops the capture, which a full buffer does before (40_sampler.md R102,
R105). -/
theorem feed_spaceTicks_stops {s : State} (hc : s.cfg.Valid) (hst : s.st = .timingSpace) (hcnt : s.cnt = 0) {n : Nat}
    (hn : s.cfg.gapTicks + 1 ≤ n) : ∃ k, feed (spaceTicks s.cfg n) s = { s with cnt := k, st := .stopped } := by
  by_cases hb : s.rawlen.toNat < s.cfg.rawBuf
  · obtain ⟨m, rfl⟩ := Nat.exists_eq_add_of_le hn
    obtain ⟨-, hstop⟩ := theTrailingGapEndsACapture s hc hst hcnt hb
    rw [spaceTicks_add, feed_append, hstop]
    exact feed_stopped (s := { s with cnt := s.cfg.gapTicks + 1, st := .stopped }) _ rfl
  · obtain ⟨m, rfl⟩ := Nat.exists_eq_add_of_le' hn
    rw [← Nat.add_assoc, spaceTicks_succ, feed_cons, tickStep_over _ (Nat.le_of_not_lt hb)]
    exact feed_stopped (s := { s with cnt := _, st := .stopped }) _ rfl

/-- The terminator ends the closing mark and then the capture. -/
theorem Timing.feed_terminator {c : Config} {runs : List Nat} {s : State} {n : Nat} (hc : c.Valid)
    (h : Timing c .timingMark runs s) (hlen : runs.length ≤ c.rawBuf) (hfit : countFits c (.space 0) n) :
    (feed (spaceTicks c n) s).st = .stopped ∧ captured (feed (spaceTicks c n) s) = runs := by
  obtain rfl := h.cfg
  rw [countFits, if_pos rfl] at hfit
  obtain ⟨m, rfl⟩ := Nat.exists_eq_add_of_le' ((Nat.le_add_left 1 _).trans hfit)
  obtain ⟨k, hstop⟩ := feed_spaceTicks_stops (s := endRun .timingSpace s) hc rfl rfl (Nat.le_of_succ_le_succ hfit)
  have hfeed : feed (spaceTicks s.cfg (m + 1)) s = { endRun .timingSpace s with cnt := k, st := .stopped } := by
    rw [spaceTicks_succ, feed_cons, h.tickStep_space hlen]
    exact hstop
  rw [hfeed]
  exact ⟨rfl, h.captured_endRun hc hlen .timingSpace⟩

/-! ### The round trip (43_encoder.md R180) -/

/-- An entry behind the gap lies where the count of its segment lies. -/
theorem countFits_memRead {c : Config} {items : List TraceItem} {counts : List Nat} {gap k : Nat} {item : TraceItem}
    {s : State} (hfit : countsFit c items counts) (hcaptured : captured s = gap :: counts)
    (hitem : items[k]? = some item) : countFits c item (memRead s (k + 1)) := by
  obtain ⟨hk, rfl⟩ := List.getElem?_eq_some_iff.1 hitem
  have hk' : k < counts.length := hfit.length_eq ▸ hk
  have hlen : k + 1 < s.rawlen.toNat := by
    rw [← length_captured, hcaptured]
    exact Nat.succ_lt_succ hk'
  have hread : counts[k]? = some (memRead s (k + 1)) := by
    rw [← captured_getElem? hlen, hcaptured]
    rfl
  obtain ⟨_, hread⟩ := List.getElem?_eq_some_iff.1 hread
  rw [← hread]
  exact hfit.get hk hk'

theorem matchMark_of_countFits {c : Config} {us n : Nat} (h : countFits c (.mark us) n) : matchMark c n us = true := h.2.2

theorem matchSpace_of_countFits {c : Config} {us n : Nat} (hus : us ≠ 0) (h : countFits c (.space us) n) :
    matchSpace c n us = true := by
  rw [countFits, if_neg hus] at h
  exact h.2.2

/-- The space of a sent bit matches a bit-space window, and the one space exactly when the bit is 1, where no count matches both
(42_decoder.md R156). -/
theorem bitSpace_matches {c : Config} (hc : c.Valid)
    (hdisjoint : ∀ t, matchSpace c t c.necZeroSpace = true → matchSpace c t c.necOneSpace = false) {bit : Bool} {n : Nat}
    (h : countFits c (.space (if bit then c.necOneSpace else c.necZeroSpace)) n) :
    (matchSpace c n c.necOneSpace = true ∨ matchSpace c n c.necZeroSpace = true) ∧ matchSpace c n c.necOneSpace = bit := by
  have hmatch := matchSpace_of_countFits (bitSpace_ne_zero hc bit) h
  cases bit with
  | true => exact ⟨.inl hmatch, hmatch⟩
  | false => exact ⟨.inr hmatch, hdisjoint n hmatch⟩

/-- A capture of the segments of a transmission decodes to the sent bits. -/
theorem exec_tryDecode_frameItems {c : Config} {s : State} {value : BitVec 32} {gap : Nat} {counts : List Nat}
    (hc : c.Valid) (hcfg : s.cfg = c) (hst : s.st = .stopped) (hcaptured : captured s = gap :: counts)
    (hfit : countsFit c (frameItems c value c.necBits) counts)
    (hdisjoint : ∀ t, matchSpace c t c.necZeroSpace = true → matchSpace c t c.necOneSpace = false) :
    ∃ v : BitVec 32,
      exec .tryDecode s = .next (respond .decoded v (BitVec.ofNat 6 c.necBits) c.protoNec false s) ∧
      (∀ i, i < c.necBits → v.getLsbD (c.necBits - 1 - i) = bitSel c.encBitAnchor value c.necBits i) ∧
      (∀ j, c.necBits ≤ j → v.getLsbD j = false) := by
  obtain rfl := hcfg
  have hlen : s.rawlen.toNat = 2 * s.cfg.necBits + 4 := by
    rw [← length_captured, hcaptured, List.length_cons, ← hfit.length_eq, length_frameItems]
  have hentry {k : Nat} {item : TraceItem} (h : (frameItems s.cfg value s.cfg.necBits)[k]? = some item) :
      countFits s.cfg item (memRead s (k + 1)) := countFits_memRead hfit hcaptured h
  obtain ⟨hhdrMark, hhdrSpace⟩ := frameItems_header s.cfg value s.cfg.necBits
  have hmark (i : Nat) (hi : i < s.cfg.necBits) : MarkMatches s.cfg (memRead s) i :=
    matchMark_of_countFits (hentry (frameItems_bit s.cfg value hi).1)
  have hspace (i : Nat) (hi : i < s.cfg.necBits) := bitSpace_matches hc hdisjoint (hentry (frameItems_bit s.cfg value hi).2)
  obtain ⟨v, hexec, hbits, habove⟩ := aFullFrameDecodesFirstBitHighest s hc hst hlen.ge
    (matchMark_of_countFits (hentry hhdrMark)) (matchSpace_of_countFits (spaces_ne_zero hc).1 (hentry hhdrSpace))
    fun i hi => ⟨hmark i hi, (hspace i hi).1⟩
  exact ⟨v, hexec, fun i hi => (hbits i hi).trans (hspace i hi).2, habove⟩

/-- Settles O49: the segments become the runs of the capture, the terminator stops it, and it decodes to the sent bits. -/
theorem aTransmissionReplayedDecodesToItsValue : Obligations.ATransmissionReplayedDecodesToItsValue := by
  intro s value khz counts c n hc hst hlen hgap hwrap hroom hdisjoint hfit
  rw [transmitItems_eq] at hfit ⊢
  obtain ⟨cfgCount, rest, -, hrest, rfl⟩ := List.forall₂_cons_left_iff.1 hfit
  obtain ⟨segments, last, rfl, hsegments, hlast⟩ := countsFit_append hrest
  obtain ⟨count, _, hterminator, ⟨⟩, rfl⟩ := List.forall₂_cons_left_iff.1 hlast
  have hidle : Timing c .idle [s.cnt + 1] s := ⟨rfl, hst, by simp [captured, hlen], hwrap⟩
  have hframe := hidle.feed_frameItems hc hgap hroom hsegments
  have hcapacity : ((s.cnt + 1) :: segments).length ≤ c.rawBuf := by
    rw [List.length_cons, ← hsegments.length_eq, length_frameItems]
    exact hroom
  obtain ⟨hstopped, hcaptured⟩ := hframe.feed_terminator hc hcapacity hterminator
  have hreplay : replay c (.cfg khz :: (frameItems c value n ++ [.space 0])) (cfgCount :: (segments ++ [count])) =
      replay c (frameItems c value n) segments ++ spaceTicks c count := by
    simp [replay, replay_append hsegments, itemTicks]
  rw [hreplay, feed_append]
  exact exec_tryDecode_frameItems hc (by rw [feed_cfg, feed_cfg]) hstopped hcaptured hsegments hdisjoint

end Sys2Proof.Machine
end

section
/-! SUPPORT. Exceptions (60_exceptions.md): a TICK and a command of one cycle in both orders, and which command words are
ILLEGAL. -/

namespace Sys2Proof.Machine

/-! ### A TICK and a command of one cycle (60_exceptions.md R197) -/

/-- A re-armed capture is empty and so below capacity. -/
theorem rearm_below {s : State} (hc : s.cfg.Valid) : (rearm s).rawlen.toNat < (rearm s).cfg.rawBuf :=
  rawlen_lt_of_eq_zero (s := rearm s) hc rfl

/-- A mark behind a re-arm that does not end a gap is noise, and a space counts: neither touches the capture. -/
theorem tickStep_rearm_of_no_gap {s : State} {level : Level} (hc : s.cfg.Valid)
    (h : ¬(level = s.cfg.markLevel ∧ s.cfg.gapTicks ≤ nextCnt s)) :
    ∃ n, tickStep level (rearm s) = { rearm s with cnt := n } := by
  by_cases hl : level = s.cfg.markLevel
  · have hg : nextCnt s < s.cfg.gapTicks := Nat.lt_of_not_le fun hg => h ⟨hl, hg⟩
    exact ⟨0, tickStep_idle_noise (s := rearm s) (rearm_below hc) rfl hl hg⟩
  · exact ⟨nextCnt s, tickStep_idle_space (s := rearm s) (rearm_below hc) rfl (Bool.eq_not.2 hl)⟩

/-- Settles O22: the reset empties whatever the TICK left, and the TICK behind it takes a row of Idle. -/
theorem resetAndTickInEitherOrder : Obligations.ResetAndTickInEitherOrder := by
  intro s level hc
  refine ⟨⟨_, _, rfl, rfl, rfl, rfl⟩, _, _, rfl, rfl, fun ⟨hl, hg⟩ => ?_, fun h => ?_⟩
  · rw [tickStep_idle_gap (s := rearm s) (rearm_below hc) rfl hl hg]
    exact ⟨rfl, rfl, by simp [memRead, nextCnt, cntModulus]⟩
  · obtain ⟨n, hn⟩ := tickStep_rearm_of_no_gap hc h
    rw [hn]
    exact ⟨rfl, rfl, rfl⟩

/-- A raised status and a TICK commute: the one writes the response, the other the SAMPLER (60_exceptions.md R199). -/
theorem tickStep_raise (level : Level) (e : Status) (s : State) :
    tickStep level (raise e s) = raise e (tickStep level s) :=
  tickStep_comm (fun _ _ => rfl) level s

/-- A decode is answered DECODED or INVALID (42_decoder.md R160). -/
theorem respondDecode_respStatus (s : State) (r : Except InvalidCause Decoded) :
    (respondDecode s r).respStatus = .decoded ∨ (respondDecode s r).respStatus = .invalid := by
  cases r with
  | ok d => exact .inl (respondDecode_ok_respStatus s d)
  | error cause => exact .inr rfl

/-- A stopped capture is answered by its decode and kept (42_decoder.md R158). -/
theorem exec_tryDecode_of_stopped {s : State} (h : s.st = .stopped) :
    ∃ u, exec .tryDecode s = .next u ∧ (u.respStatus = .decoded ∨ u.respStatus = .invalid) ∧ SameSampler s u :=
  ⟨_, execTryDecode_stopped h, respondDecode_respStatus s _, (respondDecode_onlyResponds s _).sameSampler⟩

/-- Settles O23: before the TICK the answer commutes with it, and behind it the capture is stopped and is decoded. -/
theorem decodeAndTickInEitherOrder : Obligations.DecodeAndTickInEitherOrder := by
  intro s t level hst htick hstopped
  cases htick
  constructor
  · refine ⟨_, _, exec_tryDecode_not_stopped hst, rfl, rfl, ?_⟩
    rw [tickStep_raise]
    exact ⟨hstopped, rfl, rfl, rfl⟩
  · obtain ⟨u, hexec, hstatus, hsame⟩ := exec_tryDecode_of_stopped hstopped
    exact ⟨u, hexec, hstatus, hsame.st.trans hstopped, hsame.rawlen, hsame.buf⟩

/-! ### The ILLEGAL command words (60_exceptions.md R194) -/

/-- The operations that raise ILLEGAL: the reserved ones, and a TRANSMIT outside its legal operands (30_encoding.md R86 to R88). -/
def RaisesIllegal : Instr → Prop
  | .transmit _ nbits khz => ¬(nbits.toNat ≤ 32 ∧ khz ≠ 0)
  | .reservedOp0 _ | .reservedOp6 _ | .reservedOp7 _ | .reservedBits _ => True
  | .tick _ | .startReceiving | .resetCapture | .tryDecode | .matchWindow _ _ _ => False

theorem exec_of_raisesIllegal {i : Instr} (h : RaisesIllegal i) (s : State) : exec i s = .next (raise .illegal s) := by
  cases i with
  | transmit value nbits khz =>
    rcases execTransmit_cases value nbits khz s with ⟨hlegal, -⟩ | ⟨-, hexec⟩
    · exact absurd hlegal h
    · exact hexec
  | reservedOp0 | reservedOp6 | reservedOp7 | reservedBits => rfl
  | tick | startReceiving | resetCapture | tryDecode | matchWindow => exact h.elim

/-- Every other command answers another status; a TICK answers none and keeps the status. -/
theorem exec_of_not_raisesIllegal {i : Instr} (h : ¬RaisesIllegal i) (htick : ∀ level, i ≠ .tick level) (s : State) :
    ∃ t, exec i s = .next t ∧ t.respStatus ≠ .illegal := by
  cases i with
  | tick level => exact absurd rfl (htick level)
  | startReceiving | resetCapture | matchWindow => exact ⟨_, rfl, nofun⟩
  | tryDecode =>
    by_cases hst : s.st = .stopped
    · obtain ⟨u, hexec, hstatus, -⟩ := exec_tryDecode_of_stopped hst
      exact ⟨u, hexec, by rcases hstatus with hstatus | hstatus <;> simp [hstatus]⟩
    · exact ⟨_, exec_tryDecode_not_stopped hst, nofun⟩
  | transmit value nbits khz =>
    rcases execTransmit_cases value nbits khz s with ⟨-, hexec⟩ | ⟨hnot, -⟩
    · exact ⟨_, hexec, nofun⟩
    · exact absurd hnot h
  | reservedOp0 | reservedOp6 | reservedOp7 | reservedBits => exact absurd trivial h

/-- No command word is a TICK. -/
theorem decodeCommand_ne_tick (w : CommandWord) (level : Level) : decodeCommand w ≠ .tick level := fun h => by
  have hencode := (decodeCommand_isReadingOf w).encode_eq
  rw [h] at hencode
  cases hencode

/-- A field is not 0 when one of its bits, from `lo` to `hi`, is 1. -/
theorem extractLsb'_ne_zero_iff {w : CommandWord} {lo len hi : Nat} (hhi : lo + len = hi + 1) :
    w.extractLsb' lo len ≠ 0 ↔ ∃ k, lo ≤ k ∧ k ≤ hi ∧ w.getLsbD k = true := by
  constructor
  · intro hne
    by_contra hnone
    refine hne (BitVec.eq_of_getLsbD_eq fun j hj => ?_)
    have hbit : w.getLsbD (lo + j) = false := Bool.eq_false_iff.2 fun hbit => hnone ⟨lo + j, by omega, by omega, hbit⟩
    simp [hbit]
  · rintro ⟨k, hlo, hle, hbit⟩ hzero
    have hfield := congrArg (fun x => x.getLsbD (k - lo)) hzero
    simp [show k - lo < len by omega, Nat.add_sub_cancel' hlo, hbit] at hfield

theorem raisesIllegal_decodePlain {i : Instr} (h : ¬RaisesIllegal i) (w : CommandWord) :
    RaisesIllegal (decodePlain i w) ↔ ∃ k, 3 ≤ k ∧ k ≤ 63 ∧ w.getLsbD k = true := by
  rw [← extractLsb'_ne_zero_iff (len := 61) rfl]
  unfold decodePlain
  split
  case isTrue hrest => exact iff_of_false h (not_not_intro hrest)
  case isFalse hrest => exact iff_of_true trivial hrest

theorem raisesIllegal_decodeTransmit (w : CommandWord) :
    RaisesIllegal (decodeTransmit w) ↔
      (∃ k, 17 ≤ k ∧ k ≤ 31 ∧ w.getLsbD k = true) ∨
        32 < (w.extractLsb' 3 6).toNat ∨ (w.extractLsb' 9 8).toNat = 0 := by
  rw [← extractLsb'_ne_zero_iff (len := 15) rfl]
  unfold decodeTransmit
  split
  case isTrue hreserved =>
    rw [or_iff_right (not_not_intro hreserved), RaisesIllegal, not_and_or, Nat.not_le, not_not, ← BitVec.toNat_inj]
    rfl
  case isFalse hreserved => exact iff_of_true trivial (.inl hreserved)

theorem raisesIllegal_decodeMatch (w : CommandWord) :
    RaisesIllegal (decodeMatch w) ↔ ∃ k, ((4 ≤ k ∧ k ≤ 15) ∨ (48 ≤ k ∧ k ≤ 63)) ∧ w.getLsbD k = true := by
  simp only [or_and_right, and_assoc, exists_or]
  rw [← extractLsb'_ne_zero_iff (len := 12) rfl, ← extractLsb'_ne_zero_iff (len := 16) rfl]
  unfold decodeMatch
  split
  case isTrue hreserved => exact iff_of_false id fun h => not_and_or.2 h hreserved
  case isFalse hreserved => exact iff_of_true trivial (not_and_or.1 hreserved)

/-- The list of 60_exceptions.md R194, bit by bit (30_encoding.md R82 to R88). -/
def IllegalWord (w : CommandWord) : Prop :=
  let op := (w.extractLsb' 0 3).toNat
  op = 0 ∨ op = 6 ∨ op = 7 ∨
  ((op = 1 ∨ op = 2 ∨ op = 3) ∧ ∃ k, 3 ≤ k ∧ k ≤ 63 ∧ w.getLsbD k = true) ∨
  (op = 4 ∧ ((∃ k, 17 ≤ k ∧ k ≤ 31 ∧ w.getLsbD k = true) ∨
    32 < (w.extractLsb' 3 6).toNat ∨ (w.extractLsb' 9 8).toNat = 0)) ∨
  (op = 5 ∧ ∃ k, ((4 ≤ k ∧ k ≤ 15) ∨ (48 ≤ k ∧ k ≤ 63)) ∧ w.getLsbD k = true)

/-- The listed words are those that decode to an operation that raises ILLEGAL, op by op. -/
theorem raisesIllegal_decodeCommand (w : CommandWord) : RaisesIllegal (decodeCommand w) ↔ IllegalWord w := by
  rcases op_cases (w.extractLsb' 0 3) with hop | hop | hop | hop | hop | hop | hop | hop
  · rw [decodeCommand_op0 hop]
    exact iff_of_true trivial (by simp [IllegalWord, hop])
  · rw [decodeCommand_op1 hop, raisesIllegal_decodePlain id]
    simp [IllegalWord, hop]
  · rw [decodeCommand_op2 hop, raisesIllegal_decodePlain id]
    simp [IllegalWord, hop]
  · rw [decodeCommand_op3 hop, raisesIllegal_decodePlain id]
    simp [IllegalWord, hop]
  · rw [decodeCommand_op4 hop, raisesIllegal_decodeTransmit]
    simp [IllegalWord, hop]
  · rw [decodeCommand_op5 hop, raisesIllegal_decodeMatch]
    simp [IllegalWord, hop]
  · rw [decodeCommand_op6 hop]
    exact iff_of_true trivial (by simp [IllegalWord, hop])
  · rw [decodeCommand_op7 hop]
    exact iff_of_true trivial (by simp [IllegalWord, hop])

/-- Settles O43: the listed words decode to the operations that raise ILLEGAL, and no other command does. -/
theorem exactlyTheListedWordsAreIllegal : Obligations.ExactlyTheListedWordsAreIllegal := by
  intro s w rest hin hb op illegal
  have hiff : RaisesIllegal (decodeCommand w) ↔ illegal := raisesIllegal_decodeCommand w
  rw [step_command hin hb, ← hiff]
  exact ⟨fun h => exec_of_raisesIllegal h _, fun h => exec_of_not_raisesIllegal h (decodeCommand_ne_tick w) _⟩

end Sys2Proof.Machine
end

section
/-! SUPPORT. A table row's word placed from outside (notes/assumptions 4 and 14): what `withFetchWord` offers, and the step that
takes it. -/

namespace Sys2Proof

/-- A table row's word that is an operation decodes to it as a port word. -/
theorem decode_portWordOf {nbits w : Nat} {i : Instr} (h : decodeTableWord nbits w = some i) :
    decode (portWordOf nbits w) = .ok i := by
  unfold decodeTableWord at h
  split at h
  case isTrue => cases h
  case isFalse =>
    cases hd : decode (portWordOf nbits w) with
    | ok j =>
      rw [hd] at h
      exact congrArg Except.ok (Option.some.inj h)
    | error e =>
      rw [hd] at h
      cases h

namespace Machine

/-- The placed word stands at the front on a port that takes it; an event word keeps busy, and a command word clears it. -/
theorem withFetchWord_eq (s : State) (nbits w : Nat) :
    ∃ b, s.withFetchWord nbits w = { s with inputs := .word (portWordOf nbits w) :: s.inputs, busy := b } ∧
      (b = false ∨ ∃ e, portWordOf nbits w = .event e) ∧ (s.busy = false → b = false) := by
  unfold State.withFetchWord
  cases portWordOf nbits w with
  | event e => exact ⟨s.busy, rfl, .inr ⟨e, rfl⟩, id⟩
  | command c => exact ⟨false, rfl, .inl rfl, fun _ => rfl⟩

/-- Settles O5: the placed word is the one taken (`nextInput_word`), so the step runs what it decodes to, and the port activity
behind it is the state's own again. -/
theorem aPlacedWordRunsNext : Obligations.APlacedWordRunsNext := by
  intro s nbits w i h
  obtain ⟨b, hplaced, htaken, hbusy⟩ := withFetchWord_eq s nbits w
  refine ⟨b, ?_, hbusy⟩
  rw [hplaced]
  exact step_of_decode_ok (nextInput_word htaken s.inputs) (decode_portWordOf h)

end Machine
end Sys2Proof
end
